-- ==== Sys2Proof/Word.lean ====
section
/-!
DEFINITION. The word types of the decoder block.
Every datum of the block is an unsigned byte or a small register (spec/00_scope.md R13, R17); the only
wider word is the 32-bit stimulus word `EVT32` (spec/30_encoding.md R91).
-/
namespace Sys2Proof

/-- One byte: the width of every access to `BUF`, `FIFO` and `FRM` (spec/20_memory.md R69). -/
abbrev Byte := BitVec 8

/-- One `EVT32` stimulus word (spec/30_encoding.md R91). -/
abbrev EvtWord := BitVec 32

end Sys2Proof
end

