-- ==== Sys2Proof/Config.lean ====
section
/-!
DEFINITION. What an implementation fixes: the constants of spec/00_scope.md R10, the open parameters of
R11 as plain data, and the values nothing in the spec fixes, as constants without a body.
-/
namespace Sys2Proof

/-- Day or night mode (spec/10_state.md R35). -/
inductive Mode where
  | day
  | night
deriving DecidableEq, Repr

/-- The actuator actions that `ACT` records (spec/10_state.md R42). -/
inductive Action where
  | opened
  | day
  | night
  | reject
  | validate
  | blink3
deriving DecidableEq, Repr

/-- One output pulse, "(line, level, duration)" (spec/00_scope.md R11, `PATTERN[k]`). -/
structure Pulse where
  line : Nat
  level : Bool
  duration : Nat
deriving DecidableEq, Repr

/-- An iterated block hash with a 160-bit chaining value, a 64-byte block and length padding
(spec/43_digest.md R211): SHA-1, or one of which nothing is known but that shape. -/
inductive BlockHash where
  | sha1
  | unnamed (n : Nat)
deriving DecidableEq, Repr

/-- Which function `DIGEST_FN` is (spec/43_digest.md R210, R211, R218; log entry 5): a block hash, or a
function of which nothing is known but its type. The spec's default is `.blockHash .sha1`. -/
inductive DigestFn where
  | blockHash (h : BlockHash)
  | unnamed (n : Nat)
deriving DecidableEq, Repr

namespace Config

/-! The constants of spec/00_scope.md R10. -/

/-- `BUF_CAP`: bytes in CardBuffer. -/
abbrev bufCap : Nat := 256
/-- `WG_APPEND_LIMIT`: a Wiegand byte is appended only while `CNT` is below it (spec/90_conflicts.md C3). -/
abbrev wgAppendLimit : Nat := 255
/-- `MIN_HASH_LEN`: the smallest session length that is digested. -/
abbrev minHashLen : Nat := 10
/-- `SU_FIFO_CAP`: bytes in the soft-UART FIFO. -/
abbrev suFifoCap : Nat := 16
/-- `FRAME_CAP` and `FRAME_LEN`: bytes in the frame buffer, and the required frame length. -/
abbrev frameCap : Nat := 14
/-- `FRAME_HEX_LEN`: leading characters covered by the checksum. -/
abbrev frameHexLen : Nat := 12
/-- `FRAME_ID_LEN`: characters copied to CardBuffer. -/
abbrev frameIdLen : Nat := 10
/-- `FRM_STX`: the frame-start control byte. -/
abbrev frmStxByte : Byte := 0x02#8
/-- `FRM_ETX`: the frame-end control byte. -/
abbrev frmEtxByte : Byte := 0x03#8
/-- `FRM_CR`: first terminator byte. -/
abbrev frmCr : Byte := 13#8
/-- `FRM_LF`: second terminator byte. -/
abbrev frmLf : Byte := 10#8
/-- `IDLE_SECONDS`: the idle threshold in seconds. -/
abbrev idleSeconds : Nat := 10
/-- `DIGEST_LEN`: bytes of digest output. -/
abbrev digestLen : Nat := 20
/-- `DIGEST_BLOCK`: bytes per hash block. -/
abbrev digestBlock : Nat := 64

end Config

/-- The open parameters of spec/00_scope.md R11 that are plain data. The machine carries one value of
this type through a run and no operation writes it (log entry 1). -/
structure Params where
  /-- `WG_SENTINEL`, decision D10. -/
  wgSentinel : Byte
  /-- `TICK_HZ`, decision D7. -/
  tickHz : Nat
  /-- `SECS_W`, decision D7. -/
  secsW : Nat
  /-- `TIMER_W`, decision D14. -/
  timerW : Nat
  /-- `SU_FRAC`, decision D12. -/
  suFrac : Nat
  /-- `SU_TBIT_Q`, decision D12. -/
  suTbitQ : Nat
  /-- `SU_PHASE_Q`, decision D12. -/
  suPhaseQ : Nat
  /-- `SU_TIMEOUT`, decision D13. -/
  suTimeout : Nat
  /-- `DIGEST_FN`, decision D24. -/
  digest : DigestFn
  /-- `CHIP_ID_MAX`, at most 255 by its width, decision D23. -/
  chipIdMax : Byte
  /-- `MODE_RESET`, decision D31. -/
  modeReset : Mode
deriving DecidableEq, Repr

/-- `TIMEOUT_TICKS = IDLE_SECONDS * TICK_HZ` (spec/00_scope.md R11). -/
def Params.timeoutTicks (p : Params) : Nat := Config.idleSeconds * p.tickHz

/-- The constraints of spec/00_scope.md R11, and `TIMER_W <= 16` of spec/30_encoding.md R91. The line for
`SECS_W` is `SECS_W >= ceil(log2(TIMEOUT_TICKS + 2))`. -/
abbrev Params.wf (p : Params) : Prop :=
  1 < p.tickHz ∧ p.timeoutTicks + 2 ≤ 2 ^ p.secsW ∧ p.timerW ≤ 16 ∧ 0 < p.suTbitQ ∧
    p.suPhaseQ < p.suTbitQ ∧ p.suTimeout < 2 ^ p.timerW ∧ p.chipIdMax ≠ 0#8

/-- The default of `SU_TIMEOUT`: eleven bit periods (spec/00_scope.md R11). -/
def defaultSuTimeout (tbitQ frac : Nat) : Nat := 11 * tbitQ / 2 ^ frac

/-- The vector instantiation `V` of spec/00_scope.md R12, which spec/95_test_vectors.md uses. -/
def Params.vectorV : Params where
  wgSentinel := 0xB4#8
  tickHz := 2
  secsW := 16
  timerW := 16
  suFrac := 8
  suTbitQ := 25600
  suPhaseQ := 0
  suTimeout := 1100
  digest := .blockHash .sha1
  chipIdMax := 10#8
  modeReset := .day

namespace Config

/-! What no source gives: constants without a body. No proof can see their values. -/

/-- `WG_SENTINEL` has no default (spec/00_scope.md R11). -/
opaque rawWgSentinel : Byte
/-- `TICK_HZ` has no default; see `params` for how its constraint is met. -/
opaque rawTickHz : Nat
/-- `SU_TBIT_Q` has no default; see `params`. -/
opaque rawSuTbitQ : Nat
/-- `CHIP_ID_MAX` has no default; see `params`. -/
opaque rawChipIdMax : Nat
/-- The digest functions that `DigestFn.unnamed` speaks of: total and deterministic, nothing else is known
(spec/43_digest.md R210). -/
opaque digestFn : Nat → List Byte → Vector Byte 20
/-- The fixed 160-bit constants of an unnamed function (spec/43_digest.md R211). -/
opaque hashInit : Nat → BitVec 160
/-- The compression of one 64-byte block into the 160-bit state by an unnamed block hash (R211). -/
opaque hashCompress : Nat → BitVec 160 → List Byte → BitVec 160
/-- The padding of an unnamed block hash: "standard length-padding", a function of the message's length
(R211). -/
opaque hashPadding : Nat → Nat → List Byte
/-- How an unnamed block hash emits its 160-bit state as 20 bytes (R211). -/
opaque hashOutput : Nat → BitVec 160 → Vector Byte 20
/-- `PATTERN[k]`, evaluated with a value of `MODE` (spec/00_scope.md R11, spec/44_scheduler.md R239). -/
opaque pattern : Action → Mode → List Pulse
/-- FREE VALUE (log entry 7): the answer the chip gives after ENV.CARD with an index that the card table
does not have, for the n-th such operation of a run. -/
opaque cardOutsideTable : Nat → Byte → Option (List Byte)

/-- The parameters of the machine that `State.reset` describes (log entries 1 and 2). A parameter with a
default in spec/00_scope.md R11 has its default, but for `DIGEST_FN`, which R218 asks to keep open; the
others are unknown, and each ranges over exactly the values its constraint and the two default widths
admit. -/
def params : Params where
  wgSentinel := rawWgSentinel
  tickHz := rawTickHz % 6552 + 2
  secsW := 16
  timerW := 16
  suFrac := 8
  suTbitQ := rawSuTbitQ % 1525201 + 1
  suPhaseQ := 0
  suTimeout := defaultSuTimeout (rawSuTbitQ % 1525201 + 1) 8
  digest := .blockHash (.unnamed 0)
  chipIdMax := BitVec.ofNat 8 (rawChipIdMax % 255 + 1)
  modeReset := .day

end Config

end Sys2Proof
end

