-- ==== Sys2Proof/Syntax.lean ====
section
/-!
DEFINITION. The operations of the block, one constructor per row of spec/opcode_table.json.
The block has no instruction set (spec/00_scope.md R2); an "instruction" of this model is one operation
of the spec. Four formats occur: the eight `EVT32` stimulus operations (spec/30_encoding.md R93), the
seven branches of SC.CYCLE (R95), the six classes of a host command byte (R96) and the three classes of
a card-frame byte (R97).
-/
namespace Sys2Proof

/-- The operations of spec/opcode_table.json. A line level is a `Bool`, `true` for high (1). -/
inductive Instr where
  /-- WG.CLK `d`: the clock-edge handler (spec/40_wiegand.md R121). -/
  | wgClk (d : Bool)
  /-- SU.EDGE `lv`, `t`: the serial-line-edge handler (spec/41_softuart.md R148). -/
  | suEdge (lv : Bool) (t : BitVec 16)
  /-- SU.MATCH `lv`: the countdown-match handler (spec/41_softuart.md R152). -/
  | suMatch (lv : Bool)
  /-- TK.TICK: the periodic-timer handler (spec/44_scheduler.md R236). -/
  | tkTick
  /-- BT.RX `b`: the byte-transport-receive handler (spec/44_scheduler.md R237). -/
  | btRx (b : Byte)
  /-- BT.TXRDY: the byte-transport-transmit-ready handler (spec/44_scheduler.md R238). -/
  | btTxrdy
  /-- ENV.CARD `k`: the environment places or removes a card (spec/44_scheduler.md R251). -/
  | envCard (k : Byte)
  /-- SC.CYCLE: one pass of the scheduler (spec/44_scheduler.md R231). -/
  | scCycle
  /-- SC.TICK2: the idle-timeout half of a tick unit (spec/44_scheduler.md R250). -/
  | scTick2
  /-- SC.IDLE: go to sleep (spec/44_scheduler.md R234). -/
  | scIdle
  /-- SC.CMD: one host command (spec/44_scheduler.md R239). -/
  | scCmd
  /-- SC.CMDCLR: the command queue is drained (spec/44_scheduler.md R246). -/
  | scCmdclr
  /-- SC.FRAME: one byte of the soft-UART FIFO (spec/44_scheduler.md R247). -/
  | scFrame
  /-- SC.APPEND: the session-end check (spec/44_scheduler.md R248). -/
  | scAppend
  /-- SC.TICK1: the chip-poll half of a tick unit (spec/44_scheduler.md R249). -/
  | scTick1
  /-- CMD.O: open (spec/44_scheduler.md R240). -/
  | cmdO
  /-- CMD.D: day mode (spec/44_scheduler.md R241). -/
  | cmdD
  /-- CMD.N: night mode (spec/44_scheduler.md R242). -/
  | cmdN
  /-- CMD.R: reject pattern (spec/44_scheduler.md R243). -/
  | cmdR
  /-- CMD.V: validate pattern (spec/44_scheduler.md R244). -/
  | cmdV
  /-- CMD.RSVD: any other host byte (spec/44_scheduler.md R245). -/
  | cmdRsvd (b : Byte)
  /-- FRM.STX: frame start (spec/42_assembler.md R175). -/
  | frmStx
  /-- FRM.ETX: frame end (spec/42_assembler.md R177). -/
  | frmEtx
  /-- FRM.DATA: any other frame byte (spec/42_assembler.md R176). -/
  | frmData (b : Byte)
deriving DecidableEq, Repr

/-- The mnemonic of an operation, as spec/opcode_table.json spells it. -/
def Instr.mnemonic : Instr → String
  | .wgClk _ => "WG.CLK"
  | .suEdge _ _ => "SU.EDGE"
  | .suMatch _ => "SU.MATCH"
  | .tkTick => "TK.TICK"
  | .btRx _ => "BT.RX"
  | .btTxrdy => "BT.TXRDY"
  | .envCard _ => "ENV.CARD"
  | .scCycle => "SC.CYCLE"
  | .scTick2 => "SC.TICK2"
  | .scIdle => "SC.IDLE"
  | .scCmd => "SC.CMD"
  | .scCmdclr => "SC.CMDCLR"
  | .scFrame => "SC.FRAME"
  | .scAppend => "SC.APPEND"
  | .scTick1 => "SC.TICK1"
  | .cmdO => "CMD.O"
  | .cmdD => "CMD.D"
  | .cmdN => "CMD.N"
  | .cmdR => "CMD.R"
  | .cmdV => "CMD.V"
  | .cmdRsvd _ => "CMD.RSVD"
  | .frmStx => "FRM.STX"
  | .frmEtx => "FRM.ETX"
  | .frmData _ => "FRM.DATA"

end Sys2Proof
end

