-- ==== Sys2Proof/WellFormed.lean ====
section
/-!
DEFINITION. Which operations are well formed.
Operand ranges are carried by the constructors' types; what is left to check is that an operation of the
two catch-all classes does not name a byte that another row of the table takes (spec/opcode_table.json:
CMD.RSVD and FRM.DATA "must be tried after" the other rows).
-/
namespace Sys2Proof

/-- The five command letters of spec/30_encoding.md R96, in ASCII (R104). -/
def commandBytes : List Byte := [0x4F#8, 0x44#8, 0x4E#8, 0x52#8, 0x56#8]

/-- The two control bytes of spec/30_encoding.md R97. -/
def controlBytes : List Byte := [Config.frmStxByte, Config.frmEtxByte]

/-- Well-formedness of an operation. -/
def Instr.wellFormed : Instr → Bool
  | .cmdRsvd b => !commandBytes.contains b
  | .frmData b => !controlBytes.contains b
  | .wgClk _ | .suEdge _ _ | .suMatch _ | .tkTick | .btRx _ | .btTxrdy | .envCard _ | .scCycle => true
  | .scTick2 | .scIdle | .scCmd | .scCmdclr | .scFrame | .scAppend | .scTick1 => true
  | .cmdO | .cmdD | .cmdN | .cmdR | .cmdV | .frmStx | .frmEtx => true

end Sys2Proof
end

