-- ==== Sys2Proof/Decode.lean ====
section
/-!
DEFINITION. The decoders and the encoder.
The encodings are those of spec/30_encoding.md: the `EVT32` stimulus word (R91, R93, R94, R105), the host
command byte `CMD8` (R96) and the card-frame byte `FRM8` (R97). A branch of SC.CYCLE has no bits of its
own: its word is SC.CYCLE's, and the state selects it (R95).
-/
namespace Sys2Proof

/-- Why a stimulus word is refused (spec/30_encoding.md R94, R105). -/
inductive DecodeError where
  /-- `op` is 0x00 or 0x09 to 0xFF. -/
  | reservedOp
  /-- An operand field that the operation does not use is not zero. -/
  | unusedOperandBits
deriving DecidableEq, Repr

/-! ## EVT32 -/

/-- The field `op`, bits 31:24 (spec/30_encoding.md R91). -/
def evtOp (w : EvtWord) : BitVec 8 := w.extractLsb' 24 8
/-- The field `a`, bits 23:16. -/
def evtA (w : EvtWord) : BitVec 8 := w.extractLsb' 16 8
/-- The field `t`, bits 15:0. -/
def evtT (w : EvtWord) : BitVec 16 := w.extractLsb' 0 16
/-- `a[0]`, where a level operand stands. -/
def evtLevel (w : EvtWord) : Bool := w.getLsbD 16
/-- Bits 23:17 are zero, as a level operand asks (R94). -/
def levelOnly (w : EvtWord) : Bool := w.extractLsb' 17 7 == 0#7

/-- Answer `i` if the unused operand bits are zero, else refuse by name (R94). -/
def checked (unusedZero : Bool) (i : Instr) : Except DecodeError Instr :=
  if unusedZero then .ok i else .error .unusedOperandBits

/-- The decoder of stimulus words (spec/30_encoding.md R93, R94, R105). -/
def decodeEvt32 (w : EvtWord) : Except DecodeError Instr :=
  if evtOp w = 0x01#8 then checked (levelOnly w && evtT w == 0#16) (.wgClk (evtLevel w))
  else if evtOp w = 0x02#8 then checked (levelOnly w) (.suEdge (evtLevel w) (evtT w))
  else if evtOp w = 0x03#8 then checked (levelOnly w && evtT w == 0#16) (.suMatch (evtLevel w))
  else if evtOp w = 0x04#8 then checked (evtA w == 0#8 && evtT w == 0#16) .tkTick
  else if evtOp w = 0x05#8 then checked (evtT w == 0#16) (.btRx (evtA w))
  else if evtOp w = 0x06#8 then checked (evtA w == 0#8 && evtT w == 0#16) .btTxrdy
  else if evtOp w = 0x07#8 then checked (evtT w == 0#16) (.envCard (evtA w))
  else if evtOp w = 0x08#8 then checked (evtA w == 0#8 && evtT w == 0#16) .scCycle
  else .error .reservedOp

/-! ## CMD8 and FRM8 -/

/-- The six classes of a host byte (spec/30_encoding.md R96). -/
inductive HostCommand where
  | o
  | d
  | n
  | r
  | v
  | rsvd
deriving DecidableEq, Repr

/-- The class of a host byte (spec/30_encoding.md R96, R105). -/
def hostCommand (b : Byte) : HostCommand :=
  if b = 0x4F#8 then .o
  else if b = 0x44#8 then .d
  else if b = 0x4E#8 then .n
  else if b = 0x52#8 then .r
  else if b = 0x56#8 then .v
  else .rsvd

/-- The operation that a host byte stands for. -/
def decodeCmd8 (b : Byte) : Instr :=
  match hostCommand b with
  | .o => .cmdO
  | .d => .cmdD
  | .n => .cmdN
  | .r => .cmdR
  | .v => .cmdV
  | .rsvd => .cmdRsvd b

/-- The three classes of a card-frame byte (spec/30_encoding.md R97). -/
inductive FrameClass where
  | stx
  | etx
  | data
deriving DecidableEq, Repr

/-- The class of a card-frame byte, by value alone (spec/30_encoding.md R97). -/
def frameClass (b : Byte) : FrameClass :=
  if b = Config.frmStxByte then .stx
  else if b = Config.frmEtxByte then .etx
  else .data

/-- The operation that a card-frame byte stands for. -/
def decodeFrm8 (b : Byte) : Instr :=
  match frameClass b with
  | .stx => .frmStx
  | .etx => .frmEtx
  | .data => .frmData b

/-! ## One decoder over the three formats, and the encoder -/

/-- A coded operation: the bits, and where the block finds them. -/
inductive Code where
  /-- A stimulus word. -/
  | evt (w : EvtWord)
  /-- A host command byte, taken from `RXQ`. -/
  | cmd (b : Byte)
  /-- A card-frame byte, taken from `FIFO`. -/
  | frm (b : Byte)
deriving DecidableEq, Repr

/-- The decoder, total on any bits. -/
def decode : Code → Except DecodeError Instr
  | .evt w => decodeEvt32 w
  | .cmd b => .ok (decodeCmd8 b)
  | .frm b => .ok (decodeFrm8 b)

/-- A stimulus word from its three fields (spec/30_encoding.md R91). -/
def evtWord (op a : BitVec 8) (t : BitVec 16) : EvtWord := op ++ (a ++ t)

/-- The operand field `a` of a level operand (spec/30_encoding.md R91). -/
def levelField (lv : Bool) : BitVec 8 := if lv then 1#8 else 0#8

/-- The word of SC.CYCLE and of each of its branches (spec/opcode_table.json). -/
def cycleWord : EvtWord := evtWord 0x08#8 0#8 0#16

/-- The encoder (spec/30_encoding.md R93, R96, R97; spec/opcode_table.json). -/
def encode : Instr → Code
  | .wgClk d => .evt (evtWord 0x01#8 (levelField d) 0#16)
  | .suEdge lv t => .evt (evtWord 0x02#8 (levelField lv) t)
  | .suMatch lv => .evt (evtWord 0x03#8 (levelField lv) 0#16)
  | .tkTick => .evt (evtWord 0x04#8 0#8 0#16)
  | .btRx b => .evt (evtWord 0x05#8 b 0#16)
  | .btTxrdy => .evt (evtWord 0x06#8 0#8 0#16)
  | .envCard k => .evt (evtWord 0x07#8 k 0#16)
  | .scCycle => .evt cycleWord
  | .scTick2 => .evt cycleWord
  | .scIdle => .evt cycleWord
  | .scCmd => .evt cycleWord
  | .scCmdclr => .evt cycleWord
  | .scFrame => .evt cycleWord
  | .scAppend => .evt cycleWord
  | .scTick1 => .evt cycleWord
  | .cmdO => .cmd 0x4F#8
  | .cmdD => .cmd 0x44#8
  | .cmdN => .cmd 0x4E#8
  | .cmdR => .cmd 0x52#8
  | .cmdV => .cmd 0x56#8
  | .cmdRsvd b => .cmd b
  | .frmStx => .frm Config.frmStxByte
  | .frmEtx => .frm Config.frmEtxByte
  | .frmData b => .frm b

/-- The operation an operation's own bits decode to: itself, but for a branch of SC.CYCLE, whose word is
SC.CYCLE's (spec/30_encoding.md R95). -/
def Instr.coded : Instr → Instr
  | .scTick2 => .scCycle
  | .scIdle => .scCycle
  | .scCmd => .scCycle
  | .scCmdclr => .scCycle
  | .scFrame => .scCycle
  | .scAppend => .scCycle
  | .scTick1 => .scCycle
  | .wgClk d => .wgClk d
  | .suEdge lv t => .suEdge lv t
  | .suMatch lv => .suMatch lv
  | .tkTick => .tkTick
  | .btRx b => .btRx b
  | .btTxrdy => .btTxrdy
  | .envCard k => .envCard k
  | .scCycle => .scCycle
  | .cmdO => .cmdO
  | .cmdD => .cmdD
  | .cmdN => .cmdN
  | .cmdR => .cmdR
  | .cmdV => .cmdV
  | .cmdRsvd b => .cmdRsvd b
  | .frmStx => .frmStx
  | .frmEtx => .frmEtx
  | .frmData b => .frmData b

/-! ## The opcode table of the EVT32 format -/

/-- One row of spec/opcode_table.json of format `EVT32`. -/
structure EvtRow where
  mnemonic : String
  mask : EvtWord
  pattern : EvtWord
deriving DecidableEq, Repr

/-- A word belongs to a row. -/
def EvtRow.covers (r : EvtRow) (w : EvtWord) : Bool := w &&& r.mask == r.pattern

/-- The eight rows of format `EVT32`, mask and match as spec/opcode_table.json gives them. -/
def evtRows : List EvtRow :=
  [ ⟨"WG.CLK", 0xFFFEFFFF#32, 0x01000000#32⟩,
    ⟨"SU.EDGE", 0xFFFE0000#32, 0x02000000#32⟩,
    ⟨"SU.MATCH", 0xFFFEFFFF#32, 0x03000000#32⟩,
    ⟨"TK.TICK", 0xFFFFFFFF#32, 0x04000000#32⟩,
    ⟨"BT.RX", 0xFF00FFFF#32, 0x05000000#32⟩,
    ⟨"BT.TXRDY", 0xFFFFFFFF#32, 0x06000000#32⟩,
    ⟨"ENV.CARD", 0xFF00FFFF#32, 0x07000000#32⟩,
    ⟨"SC.CYCLE", 0xFFFFFFFF#32, 0x08000000#32⟩ ]

/-! ## The host's question -/

/-- Whether a bare byte is read as a card-frame byte (log entry 8). The two 8-bit formats of
spec/opcode_table.json overlap; in the block the queue that holds a byte says which format it is. With no
queue named, the five command letters are commands, and the bytes a card frame is made of
(spec/30_encoding.md R97, R100: the control bytes, the hex characters, carriage return, line feed) are
frame bytes, and every other byte is a host byte. -/
def bareByteIsFrame (b : Byte) : Bool :=
  !commandBytes.contains b &&
    (controlBytes.contains b || b == Config.frmCr || b == Config.frmLf ||
      (0x30#8 ≤ b && b ≤ 0x39#8) || (0x41#8 ≤ b && b ≤ 0x46#8))

/-- The coded operation of a table row's bits: a stimulus word for a 32-bit row, and for an 8-bit row the
byte in the queue that `bareByteIsFrame` names. -/
def tableCode (nbits w : Nat) : Option Code :=
  if nbits = 32 then some (.evt (BitVec.ofNat 32 w))
  else if nbits = 8 then
    let b := BitVec.ofNat 8 w
    some (if bareByteIsFrame b then .frm b else .cmd b)
  else none

/-- The operation that the decoder reads from a table row's bits. -/
def decodeTableWord (nbits w : Nat) : Option Instr :=
  match tableCode nbits w with
  | none => none
  | some c =>
    match decode c with
    | .ok i => some i
    | .error _ => none

end Sys2Proof
end

