-- ==== Sys2Proof/Machine/State.lean ====
section
/-!
DEFINITION. The state of the block, its reset, and the reasons a step stops.
The tuple of registers and memories is that of spec/10_state.md R20; the environment-facing objects are
those of its R40 to R43; the last four fields are the model's own (INVENTORY.md says which and why).
-/
namespace Sys2Proof.Machine

/-- `SU_STATE` (spec/10_state.md R25). -/
inductive SuState where
  /-- `AWAIT_START` = 0. -/
  | awaitStart
  /-- `SAMPLING` = 1. -/
  | sampling
deriving DecidableEq, Repr

/-- `SC_PHASE` (spec/10_state.md R38). -/
inductive ScPhase where
  /-- `TOP` = 0. -/
  | top
  /-- `TICK2` = 1. -/
  | tick2
deriving DecidableEq, Repr

/-- The bytes of one memory space that differ from what an unlisted index reads as, by rising index.
`Memory.wf` (Machine/Ops.lean) is the canonical form. -/
abbrev Memory := List Host.Cell

/-- The state of the block. -/
structure State where
  /-- `WG_ACC`, id 0 (R21). -/
  wgAcc : Byte
  /-- `WG_BIT`, id 1, 3 bits, 0 to 7 (R22). -/
  wgBit : Fin 8
  /-- `CNT`, id 2, 9 bits, legal values 0 to 256 (R23). -/
  cnt : Fin 257
  /-- `SECS`, id 3, `SECS_W` bits (R24). -/
  secs : Nat
  /-- `SU_STATE`, id 4 (R25). -/
  suState : SuState
  /-- `SU_BITS`, id 5, 4 bits, legal values 0 to 8 (R26). -/
  suBits : Fin 9
  /-- `SU_BYTE`, id 6 (R27). -/
  suByte : Byte
  /-- `SU_ORIGIN`, id 7, `TIMER_W` bits (R28). -/
  suOrigin : Nat
  /-- `SU_ARMED`, id 8 (R29). -/
  suArmed : Bool
  /-- `SU_MATCH`, id 9, `TIMER_W` bits (R29). -/
  suMatch : Nat
  /-- `FRM_LEN`, id 11, 4 bits (R31). -/
  frmLen : Fin 16
  /-- `FRM_COLL`, id 12 (R32). -/
  frmColl : Bool
  /-- `EVF`, id 13, bits 0 RX, 1 TICK, 2 APPENDED (R34). -/
  evf : BitVec 3
  /-- `MODE`, id 14 (R35). -/
  mode : Mode
  /-- `FAULT`, id 15, bit 0 SU_OVR (R36). -/
  fault : BitVec 1
  /-- `SLEEP`, id 16 (R37). -/
  sleep : Bool
  /-- `SC_PHASE`, id 17 (R38). -/
  scPhase : ScPhase
  /-- `BUF`, 256 bytes (R33). -/
  buf : Memory
  /-- `FRM`, 14 bytes (R31). -/
  frm : Memory
  /-- `FIFO`, at most 16 bytes, oldest first (R30); `FIFO_CNT`, id 10, is its length. -/
  fifo : List Byte
  /-- `RXQ`, oldest first, unbounded (R40). -/
  rxq : List Byte
  /-- `TX`, in the order sent, unbounded (R41). -/
  tx : List Byte
  /-- `ACT`, in the order performed (R42). -/
  act : List Action
  /-- `CARD`: none, or the identifier the chip will report (R43). -/
  card : Option (List Byte)
  /-- The model's own: the open parameters, an argument of the machine that no operation writes
  (spec/00_scope.md R11; log entry 1). -/
  par : Params
  /-- The model's own: the stimulus words the environment has still to deliver, in order
  (spec/30_encoding.md R92; log entry 3). -/
  stim : List EvtWord
  /-- The model's own: the stimulus program's card table, index 1 first (spec/30_encoding.md R92;
  log entry 3). -/
  cardTable : List (List Byte)
  /-- The model's own: how many free values the run has drawn (log entry 7). -/
  drawn : Nat
deriving DecidableEq, Repr

/-- `FIFO_CNT`, id 10: the number of bytes in `FIFO` (spec/10_state.md R30). -/
def State.fifoCnt (s : State) : Nat := s.fifo.length

/-- Why the block has no step. No operation of the block raises an exception (spec/60_exceptions.md R280);
this is the spec's "stuck" (spec/93_implementation_defined.md U16). -/
inductive Fault where
  /-- Raised by SC.CYCLE, and by an operation that names one of its branches, while `SLEEP = 1`: "the
  operation SC.CYCLE is not enabled" (spec/10_state.md R37, spec/44_scheduler.md R231). Safe: the model
  stops where the block takes no step. -/
  | schedulerAsleep
deriving DecidableEq, Repr

/-- Why the machine refuses a stimulus. -/
inductive Refusal where
  /-- Raised by an arm of `exec` that has no meaning yet. Safe. -/
  | notModelled (mnemonic : String)
  /-- Raised by `step`: the word's `op` is reserved (spec/30_encoding.md R105). Safe. -/
  | reservedOp
  /-- Raised by `step`: an unused operand field is not zero (spec/30_encoding.md R94, R105). Safe. -/
  | unusedOperandBits
  /-- Raised by SU.EDGE: the timer count does not fit `TIMER_W` bits, so that the word's high bits are
  not zero (spec/30_encoding.md R91, R105). Safe; it cannot happen at the default width 16. -/
  | timerCountTooWide
  /-- Raised by an operation that names a branch of SC.CYCLE in a state that selects another one
  (spec/30_encoding.md R95, R107). `step` never executes such an operation. Safe. -/
  | branchNotSelected
  /-- Raised by `step`: the environment has delivered every word (spec/30_encoding.md R92). Safe. -/
  | stimulusEnded
deriving DecidableEq, Repr

/-- The block right after reset, with parameters `p` (spec/10_state.md R49, spec/70_reset_and_hazards.md
R321). Unlisted bytes of `BUF` are the filler pattern. -/
def State.resetWith (p : Params) : State where
  wgAcc := 0#8
  wgBit := 0
  cnt := 0
  secs := 0
  suState := .awaitStart
  suBits := 0
  suByte := 0#8
  suOrigin := 0
  suArmed := false
  suMatch := 0
  frmLen := 0
  frmColl := false
  evf := 0#3
  mode := p.modeReset
  fault := 0#1
  sleep := false
  scPhase := .top
  buf := []
  frm := []
  fifo := []
  rxq := []
  tx := []
  act := []
  card := none
  par := p
  stim := []
  cardTable := []
  drawn := 0

/-- The block right after reset. -/
def State.reset : State := State.resetWith Config.params

end Sys2Proof.Machine
end

