-- ==== Sys2Proof/Machine/Operands.lean ====
section
/-!
DEFINITION. How operands are assembled from bits (spec/30_encoding.md R110) and how bytes are rendered
(R102, R103).
-/
namespace Sys2Proof.Machine

/-- Set bit `k` of a byte. -/
def setBit (b : Byte) (k : Nat) : Byte := b ||| (1#8 <<< k)

/-! ## Elapsed time and bit cells -/

/-- `(t - SU_ORIGIN) mod 2^TIMER_W` (spec/41_softuart.md R145). The origin is reduced first, so that the
difference of naturals is exact whatever it holds. -/
def elapsed (p : Params) (t origin : Nat) : Nat :=
  (t + (2 ^ p.timerW - origin % 2 ^ p.timerW)) % 2 ^ p.timerW

/-- `su_cells` (spec/41_softuart.md R149). -/
def suCells (p : Params) (e : Nat) : Nat := (e * 2 ^ p.suFrac + p.suPhaseQ) / p.suTbitQ

/-- The data cells that have wholly elapsed, `min(max(c - 1, 0), 8)` (spec/41_softuart.md R145, R148). -/
def dataCells (c : Nat) : Nat := min (c - 1) 8

/-- The loop of spec/41_softuart.md R148 and R152: record the bit `v` in `count` positions from `k` up.
Recording a 0 changes nothing (R146). -/
def recordBits (v : Bool) : (count : Nat) → (k : Nat) → Byte → Byte
  | 0, _, b => b
  | count + 1, k, b => recordBits v count (k + 1) (if v then setBit b k else b)

/-! ## Hex characters -/

/-- `hexval(c)`: the value of an upper-case hex character, or none (spec/30_encoding.md R101). -/
def hexval (c : Byte) : Option (BitVec 4) :=
  if 0x30#8 ≤ c ∧ c ≤ 0x39#8 then some ((c - 0x30#8).setWidth 4)
  else if 0x41#8 ≤ c ∧ c ≤ 0x46#8 then some ((c - 0x41#8 + 10#8).setWidth 4)
  else none

/-- `{hexval(hi), hexval(lo)}` (spec/30_encoding.md R101); evaluated only where both are valid. -/
def hexPair (hi lo : Byte) : Byte := (hexval hi).getD 0#4 ++ (hexval lo).getD 0#4

/-- `hexchar(n)` (spec/30_encoding.md R102). -/
def hexchar (n : BitVec 4) : Byte :=
  if n.toNat < 10 then BitVec.ofNat 8 (0x30 + n.toNat) else BitVec.ofNat 8 (0x41 + n.toNat - 10)

/-- The two characters of a byte, high nibble first (spec/30_encoding.md R102). -/
def hexOfByte (b : Byte) : List Byte := [hexchar (b.extractLsb' 4 4), hexchar (b.extractLsb' 0 4)]

/-! ## Output lines -/

/-- The five bytes `HASH+` (spec/30_encoding.md R102). -/
def hashText : List Byte := [0x48#8, 0x41#8, 0x53#8, 0x48#8, 0x2B#8]

/-- `hash_line(g)`: 46 bytes (spec/43_digest.md R216, spec/30_encoding.md R102). -/
def hashLine (g : Vector Byte 20) : List Byte := hashText ++ g.toList.flatMap hexOfByte ++ [0x0A#8]

/-- The heartbeat line `ALIVE` and a line feed (spec/30_encoding.md R103). -/
def aliveLine : List Byte := [0x41#8, 0x4C#8, 0x49#8, 0x56#8, 0x45#8, 0x0A#8]

/-! ## Chip identifiers and the card table -/

/-- An identifier is inside the chip collaborator's contract: length 1 to `CHIP_ID_MAX`
(spec/30_encoding.md R109, spec/42_assembler.md R185). -/
def inContract (p : Params) (id : List Byte) : Bool :=
  1 ≤ id.length && id.length ≤ p.chipIdMax.toNat

/-- `table[k]`: none for `k = 0`, else the `k`-th identifier (spec/44_scheduler.md R251). The outer
`none` says that the table has no such index. -/
def cardOfTable (table : List (List Byte)) (k : Nat) : Option (Option (List Byte)) :=
  if k = 0 then some none else (table[k - 1]?).map some

end Sys2Proof.Machine
end

