-- ==== Sys2Proof/Machine/Digest.lean ====
section
/-!
DEFINITION. The Digest Engine (spec/43_digest.md). Its contract is a total function from a byte string to
20 bytes (R210); its three phases, on a context of a 160-bit state, a block buffer and a length counter, are
those of R213. SHA-1 is the spec's default for the open parameter `DIGEST_FN`, from general knowledge (R218,
log entry 5); no statement rests on it.
-/
namespace Sys2Proof.Machine

/-! ## SHA-1, the default of the open parameter -/

/-- A 32-bit word from four bytes, the first one highest. -/
def be32 (a b c d : Byte) : BitVec 32 := a ++ (b ++ (c ++ d))

/-- The bytes of a 32-bit word, the highest first. -/
def bytesOf32 (w : BitVec 32) : List Byte :=
  [w.extractLsb' 24 8, w.extractLsb' 16 8, w.extractLsb' 8 8, w.extractLsb' 0 8]

/-- The words of a byte string whose length is a multiple of four. -/
def words32 : List Byte → List (BitVec 32)
  | a :: b :: c :: d :: rest => be32 a b c d :: words32 rest
  | _ => []

/-- The padding of spec/43_digest.md R218 for a message of `len` bytes: a 1 bit, zeros, and the 64-bit
big-endian bit length. -/
def sha1Padding (len : Nat) : List Byte :=
  let bits : BitVec 64 := BitVec.ofNat 64 (8 * len)
  0x80#8 :: List.replicate ((119 - len % 64) % 64) 0#8 ++
    bytesOf32 (bits.extractLsb' 32 32) ++ bytesOf32 (bits.extractLsb' 0 32)

/-- Rotate a word left. -/
def rotl (w : BitVec 32) (n : Nat) : BitVec 32 := (w <<< n) ||| (w >>> (32 - n))

/-- Extend a message schedule, held newest word first, by `n` words. -/
def sha1Extend : Nat → List (BitVec 32) → List (BitVec 32)
  | 0, ws => ws
  | n + 1, ws =>
    sha1Extend n (rotl (ws.getD 2 0 ^^^ ws.getD 7 0 ^^^ ws.getD 13 0 ^^^ ws.getD 15 0) 1 :: ws)

/-- The 160-bit state. -/
structure Sha1State where
  a : BitVec 32
  b : BitVec 32
  c : BitVec 32
  d : BitVec 32
  e : BitVec 32
deriving DecidableEq, Repr

/-- The five words in one 160-bit value, the first one highest. -/
def sha1Pack (r : Sha1State) : BitVec 160 := r.a ++ (r.b ++ (r.c ++ (r.d ++ r.e)))

/-- The five words of a 160-bit value. -/
def sha1Unpack (h : BitVec 160) : Sha1State :=
  ⟨h.extractLsb' 128 32, h.extractLsb' 96 32, h.extractLsb' 64 32, h.extractLsb' 32 32,
    h.extractLsb' 0 32⟩

/-- The initial words of spec/43_digest.md R218. -/
def sha1Init : BitVec 160 :=
  sha1Pack ⟨0x67452301#32, 0xEFCDAB89#32, 0x98BADCFE#32, 0x10325476#32, 0xC3D2E1F0#32⟩

/-- Round `t` with schedule word `w`. -/
def sha1Round (t : Nat) (w : BitVec 32) (h : Sha1State) : Sha1State :=
  let fk : BitVec 32 × BitVec 32 :=
    if t < 20 then ((h.b &&& h.c) ||| (~~~h.b &&& h.d), 0x5A827999#32)
    else if t < 40 then (h.b ^^^ h.c ^^^ h.d, 0x6ED9EBA1#32)
    else if t < 60 then ((h.b &&& h.c) ||| (h.b &&& h.d) ||| (h.c &&& h.d), 0x8F1BBCDC#32)
    else (h.b ^^^ h.c ^^^ h.d, 0xCA62C1D6#32)
  ⟨rotl h.a 5 + fk.1 + h.e + fk.2 + w, h.a, rotl h.b 30, h.c, h.d⟩

/-- The rounds over a schedule, from round `t` on. -/
def sha1Rounds : Nat → List (BitVec 32) → Sha1State → Sha1State
  | _, [], h => h
  | t, w :: ws, h => sha1Rounds (t + 1) ws (sha1Round t w h)

/-- Compress one 64-byte block. -/
def sha1Compress (h : BitVec 160) (block : List Byte) : BitVec 160 :=
  let s := sha1Unpack h
  let r := sha1Rounds 0 (sha1Extend 64 (words32 block).reverse).reverse s
  sha1Pack ⟨s.a + r.a, s.b + r.b, s.c + r.c, s.d + r.d, s.e + r.e⟩

/-- The 20 bytes of a 160-bit value, the highest first. -/
def sha1Output (h : BitVec 160) : Vector Byte 20 := Vector.ofFn (fun i => h.extractLsb' (152 - 8 * i.val) 8)

/-! ## Block hashes -/

/-- The fixed 160-bit constants (spec/43_digest.md R211). -/
def hashInit : BlockHash → BitVec 160
  | .sha1 => sha1Init
  | .unnamed n => Config.hashInit n

/-- Compress one 64-byte block into the 160-bit state (R211, R213). -/
def hashCompress : BlockHash → BitVec 160 → List Byte → BitVec 160
  | .sha1 => sha1Compress
  | .unnamed n => Config.hashCompress n

/-- The padding of a message of a given length (R211). -/
def hashPadding : BlockHash → Nat → List Byte
  | .sha1 => sha1Padding
  | .unnamed n => Config.hashPadding n

/-- The 20 bytes emitted (R211). -/
def hashOutput : BlockHash → BitVec 160 → Vector Byte 20
  | .sha1 => sha1Output
  | .unnamed n => Config.hashOutput n

/-- Compress the first `n` 64-byte blocks of a byte string. -/
def compressBlocks (h : BlockHash) : Nat → BitVec 160 → List Byte → BitVec 160
  | 0, v, _ => v
  | n + 1, v, m =>
    compressBlocks h n (hashCompress h v (m.take Config.digestBlock)) (m.drop Config.digestBlock)

/-- Compress the whole blocks of a byte string. -/
def compressAll (h : BlockHash) (v : BitVec 160) (m : List Byte) : BitVec 160 :=
  compressBlocks h (m.length / Config.digestBlock) v m

/-- The block hash of a message: pad it, compress its blocks, emit the state (R211). -/
def blockDigest (h : BlockHash) (m : List Byte) : Vector Byte 20 :=
  hashOutput h (compressAll h (hashInit h) (m ++ hashPadding h m.length))

/-- `DIGEST_FN` (spec/43_digest.md R210). -/
def digestFn (f : DigestFn) (m : List Byte) : Vector Byte 20 :=
  match f with
  | .blockHash h => blockDigest h m
  | .unnamed n => Config.digestFn n m

/-! ## The engine and its three phases -/

/-- DigestContext: "a running 160-bit hash state, a partial-block buffer, and a total-length counter;
created fresh for each digest operation, never persisted" (spec/10_state.md R45). Of a function with no
known block structure the buffer keeps every byte (log entry 21). -/
structure DigestContext where
  hash : BitVec 160
  block : List Byte
  length : Nat
deriving DecidableEq, Repr

/-- `init`: the fixed constants, an empty block buffer and length 0 (spec/43_digest.md R213). -/
def digestInit (f : DigestFn) : DigestContext :=
  match f with
  | .blockHash h => ⟨hashInit h, [], 0⟩
  | .unnamed n => ⟨Config.hashInit n, [], 0⟩

/-- Append one byte to the block buffer; a full 64-byte block is compressed into the 160-bit state and
the buffer is empty again (spec/43_digest.md R213). -/
def absorbByte (h : BlockHash) (c : DigestContext) (b : Byte) : DigestContext :=
  if c.block.length + 1 = Config.digestBlock then
    ⟨hashCompress h c.hash (c.block ++ [b]), [], c.length + 1⟩
  else ⟨c.hash, c.block ++ [b], c.length + 1⟩

/-- `update(ctx, bytes)` (spec/43_digest.md R213). -/
def digestUpdate (f : DigestFn) (c : DigestContext) (bs : List Byte) : DigestContext :=
  match f with
  | .blockHash h => bs.foldl (absorbByte h) c
  | .unnamed _ => ⟨c.hash, c.block ++ bs, c.length + bs.length⟩

/-- `final(ctx)`: pad, compress, and return the 20 bytes (spec/43_digest.md R213). -/
def digestFinal (f : DigestFn) (c : DigestContext) : Vector Byte 20 :=
  match f with
  | .blockHash h => hashOutput h (compressAll h c.hash (c.block ++ hashPadding h c.length))
  | .unnamed n => Config.digestFn n c.block

/-- DG.HASH `m`: one `init`, one `update`, one `final` (spec/43_digest.md R210, R213). -/
def dgHash (f : DigestFn) (m : List Byte) : Vector Byte 20 :=
  digestFinal f (digestUpdate f (digestInit f) m)

end Sys2Proof.Machine
end

