-- ==== Sys2Proof/Machine/Flags.lean ====
section
/-!
DEFINITION. The flags: `EVF` (spec/10_state.md R34) and the sticky `FAULT` (R36). The block has no
arithmetic flag (spec/00_scope.md R17).
-/
namespace Sys2Proof.Machine

/-- The three event flags (spec/10_state.md R34). -/
inductive EventFlag where
  | rx
  | tick
  | appended
deriving DecidableEq, Repr

/-- The bit of `EVF` that holds a flag (spec/10_state.md R34). -/
def flagBit : EventFlag → Nat
  | .rx => 0
  | .tick => 1
  | .appended => 2

/-- A flag is set. -/
def flagSet (f : EventFlag) (s : State) : Bool := s.evf.getLsbD (flagBit f)

/-- Raise a flag; raising one that is set changes nothing (spec/20_memory.md R78). -/
def raiseFlag (f : EventFlag) (s : State) : State := { s with evf := s.evf ||| (1#3 <<< flagBit f) }

/-- Clear a flag. -/
def clearFlag (f : EventFlag) (s : State) : State := { s with evf := s.evf &&& ~~~(1#3 <<< flagBit f) }

/-- `raise Overrun`: set `FAULT.SU_OVR` (spec/00_scope.md R14, spec/10_state.md R36). -/
def raiseOverrun (s : State) : State := { s with fault := s.fault ||| 1#1 }

end Sys2Proof.Machine
end

