-- ==== Sys2Proof/Machine/Ops.lean ====
section
/-!
DEFINITION. The named operations over the memories, queues and registers.
`MemRead` and `MemWrite`, `push` and `pop`, `TX ++` and `ACT ++` are the primitives of spec/00_scope.md
R14. The block has no exception; entering a handler, the one thing every interrupt does, is
`handlerEntry`.
-/
namespace Sys2Proof.Machine

/-! ## The memory spaces `BUF` and `FRM` -/

/-- The indexed memory spaces (spec/20_memory.md R60). `FIFO` is accessed only as a queue (R62). -/
inductive Space where
  | buf
  | frm
deriving DecidableEq, Repr

/-- The number of bytes of a space (spec/20_memory.md R60). -/
def Space.size : Space → Nat
  | .buf => Config.bufCap
  | .frm => Config.frameCap

/-- What an index that is not listed reads as. `BUF`: the filler, "byte i holds value i"
(spec/10_state.md R33). `FRM`: zero; the spec leaves it unspecified and no operation reads it
(spec/10_state.md R31; log entry 4). -/
def Memory.unlisted : Space → Nat → Byte
  | .buf, i => BitVec.ofNat 8 i
  | .frm, _ => 0#8

/-- `MemRead(S, i, 1)`. -/
def Memory.read (sp : Space) : Memory → Nat → Byte
  | [], i => Memory.unlisted sp i
  | (j, v) :: m, i => if j = i then v else Memory.read sp m i

/-- Insert an entry by rising index, in place of one at the same index. -/
def Memory.insert (i : Nat) (v : Byte) : Memory → Memory
  | [] => [(i, v)]
  | (j, w) :: m =>
    if i < j then (i, v) :: (j, w) :: m
    else if i = j then (i, v) :: m
    else (j, w) :: Memory.insert i v m

/-- Remove the entry at an index. -/
def Memory.erase (i : Nat) : Memory → Memory
  | [] => []
  | (j, w) :: m => if j = i then m else (j, w) :: Memory.erase i m

/-- `MemWrite(S, i, 1, v)`; writing what an unlisted index reads as removes the entry. -/
def Memory.write (sp : Space) (m : Memory) (i : Nat) (v : Byte) : Memory :=
  if v = Memory.unlisted sp i then Memory.erase i m else Memory.insert i v m

/-- Write a byte string at ascending indices from `i` (spec/20_memory.md R67). -/
def Memory.writeFrom (sp : Space) (m : Memory) (i : Nat) : List Byte → Memory
  | [] => m
  | b :: bs => Memory.writeFrom sp (Memory.write sp m i b) (i + 1) bs

/-- The bytes at indices `i` to `i + n - 1`, lowest first. -/
def Memory.bytes (sp : Space) (m : Memory) (i n : Nat) : List Byte :=
  (List.range n).map (fun k => Memory.read sp m (i + k))

/-- Indices rise strictly, each above `lo`. -/
def Memory.rising (lo : Nat) : Memory → Bool
  | [] => true
  | (j, _) :: m => lo ≤ j && Memory.rising (j + 1) m

/-- The canonical form: indices rise strictly and lie in the space, and no entry equals what an unlisted
index reads as. -/
def Memory.wf (sp : Space) (m : Memory) : Bool :=
  Memory.rising 0 m && m.all (fun c => c.1 < sp.size && c.2 != Memory.unlisted sp c.1)

/-! ## Interrupts and the environment -/

/-- Entering a handler: "Every handler operation sets `SLEEP <- 0`, first of all its effects"
(spec/60_exceptions.md R293). Nothing is saved and no mode changes (R291); the return has no effect of
its own, since the operation ends and the next SC.CYCLE goes on from the state as it is (R292). -/
def handlerEntry (s : State) : State := { s with sleep := false }

/-- `SECS <- 0` (spec/10_state.md R24). -/
def clearSecs (s : State) : State := { s with secs := 0 }

/-- `SECS <- (SECS + 1) mod 2^SECS_W` (spec/44_scheduler.md R236). -/
def countTick (s : State) : State := { s with secs := (s.secs + 1) % 2 ^ s.par.secsW }

/-- `push(RXQ, b)` (spec/44_scheduler.md R237). -/
def pushRx (b : Byte) (s : State) : State := { s with rxq := s.rxq ++ [b] }

/-- `SC_PHASE <- p` (spec/10_state.md R38). -/
def setPhase (p : ScPhase) (s : State) : State := { s with scPhase := p }

/-- `MODE <- m` (spec/10_state.md R35). -/
def setMode (m : Mode) (s : State) : State := { s with mode := m }

/-- The next stimulus word, and the state without it (spec/30_encoding.md R92). -/
def nextStimulus (s : State) : Option (EvtWord × State) :=
  match s.stim with
  | [] => none
  | w :: ws => some (w, { s with stim := ws })

/-! ## Outputs -/

/-- `TX ++ line` (spec/10_state.md R41). -/
def send (line : List Byte) (s : State) : State := { s with tx := s.tx ++ line }

/-- `ACT ++ [k]` (spec/10_state.md R42). -/
def perform (k : Action) (s : State) : State := { s with act := s.act ++ [k] }

/-- The value of `MODE` after an action: only the actions of `D` and `N` come with a change of mode
(spec/44_scheduler.md R241, R242). -/
def modeAfter (m : Mode) : Action → Mode
  | .day => .day
  | .night => .night
  | .opened | .reject | .validate | .blink3 => m

/-- The output pulses of an action trace that begins in mode `m`: for each entry `PATTERN[k]`, "evaluated
with the value of `MODE` after the command" (spec/44_scheduler.md R239). -/
def pulses (m : Mode) : List Action → List Pulse
  | [] => []
  | k :: ks => Config.pattern k (modeAfter m k) ++ pulses (modeAfter m k) ks

/-- The output pulses the block has driven since reset. -/
def State.pulses (s : State) : List Pulse := Machine.pulses s.par.modeReset s.act

end Sys2Proof.Machine
end

