-- ==== Sys2Proof/Machine/Assembler.lean ====
section
/-!
DEFINITION. The Card Session Assembler (spec/42_assembler.md): the procedures that run inside WG.CLK and
inside the branches of SC.CYCLE, and the meanings of FRM.STX, FRM.DATA and FRM.ETX.
-/
namespace Sys2Proof.Machine

/-! ## The write entry point, the reset and the commits -/

/-- `csa_write(b)` (spec/42_assembler.md R171). -/
def csaWrite (b : Byte) (s : State) : State :=
  if h : s.cnt.val < Config.wgAppendLimit then
    { s with
      buf := Memory.write .buf s.buf s.cnt.val b
      cnt := ⟨s.cnt.val + 1, by have := h; simp only [Config.wgAppendLimit] at this; omega⟩ }
  else s

/-- `csa_reset()` (spec/42_assembler.md R172): every byte of `BUF` reads as the filler. -/
def csaReset (s : State) : State := { s with buf := [], cnt := 0 }

/-- Write `n` bytes at indices 0 to `n - 1` of `BUF` and set `CNT` to `n`, with the acknowledgment blink:
what `frame_commit` and `chip_commit` share (spec/42_assembler.md R182, R186). -/
def commitBytes (bs : List Byte) (n : Fin 257) (s : State) : State :=
  perform .blink3 { s with buf := Memory.writeFrom .buf s.buf 0 bs, cnt := n }

/-! ## Card frames -/

/-- `FRM[i]`. -/
def frmAt (s : State) (i : Nat) : Byte := Memory.read .frm s.frm i

/-- `pair_i` (spec/30_encoding.md R101). -/
def framePair (s : State) (i : Nat) : Byte := hexPair (frmAt s (2 * i)) (frmAt s (2 * i + 1))

/-- The XOR of the six pairs (spec/42_assembler.md R179). -/
def frameXor (s : State) : Byte :=
  framePair s 0 ^^^ framePair s 1 ^^^ framePair s 2 ^^^ framePair s 3 ^^^ framePair s 4 ^^^ framePair s 5

/-- `frame_valid()` (spec/42_assembler.md R177 to R181). -/
def frameValid (s : State) : Bool :=
  s.frmLen.val == Config.frameCap && s.cnt.val == 0 &&
    (List.range Config.frameHexLen).all (fun i => (hexval (frmAt s i)).isSome) &&
    frameXor s == 0#8 && frmAt s 12 == Config.frmCr && frmAt s 13 == Config.frmLf

/-- The characters a frame commit copies: `FRM[0]` to `FRM[9]` (spec/42_assembler.md R182). -/
def frameId (s : State) : List Byte := Memory.bytes .frm s.frm 0 Config.frameIdLen

/-- `frame_commit()` (spec/42_assembler.md R182). -/
def frameCommit (s : State) : State := commitBytes (frameId s) 10 s

/-- FRM.STX (spec/42_assembler.md R175). -/
def frameStart (s : State) : State := { s with frmLen := 0, frmColl := true }

/-- FRM.DATA `b` (spec/42_assembler.md R176). -/
def frameData (b : Byte) (s : State) : State :=
  if s.frmColl then
    if h : s.frmLen.val < Config.frameCap then
      { s with
        frm := Memory.write .frm s.frm s.frmLen.val b
        frmLen := ⟨s.frmLen.val + 1, by have := h; simp only [Config.frameCap] at this; omega⟩ }
    else { s with frmLen := 15 }
  else s

/-- The last line of FRM.ETX (spec/42_assembler.md R184). -/
def frameClose (s : State) : State := { s with frmLen := 0, frmColl := false }

/-- FRM.ETX (spec/42_assembler.md R177, R183, R184). -/
def frameEnd (s : State) : State :=
  frameClose (if s.frmColl && frameValid s then frameCommit s else s)

/-- `frame_byte(b)` (spec/42_assembler.md R174). -/
def frameByte (b : Byte) (s : State) : State :=
  match frameClass b with
  | .stx => frameStart s
  | .etx => frameEnd s
  | .data => frameData b s

/-- The meaning of FRM.STX (spec/42_assembler.md R175). -/
def execFrmStx (s : State) : Host.Outcome State Fault Refusal := .next (frameStart s)

/-- The meaning of FRM.ETX (spec/42_assembler.md R177). -/
def execFrmEtx (s : State) : Host.Outcome State Fault Refusal := .next (frameEnd s)

/-- The meaning of FRM.DATA (spec/42_assembler.md R176). -/
def execFrmData (b : Byte) (s : State) : Host.Outcome State Fault Refusal := .next (frameData b s)

/-! ## Chip, session end, idle timeout -/

/-- `chip_commit(id, L)` (spec/42_assembler.md R186). The identifier is in the collaborator's contract, so
its length is at most 255. -/
def chipCommit (id : List Byte) (s : State) : State :=
  if h : id.length < 257 then commitBytes id ⟨id.length, h⟩ s else s

/-- `chip_poll()` (spec/42_assembler.md R185, R187): an answer outside the contract is treated as none. -/
def chipPoll (s : State) : State :=
  match s.card with
  | none => s
  | some id => if inContract s.par id && s.cnt.val == 0 then chipCommit id s else s

/-- The 256 bytes of `BUF` in index order: the message of the digest (spec/43_digest.md R214,
spec/20_memory.md R64). -/
def bufMessage (s : State) : List Byte := Memory.bytes .buf s.buf 0 Config.bufCap

/-- The session-end condition: a byte is committed and the last one is the sentinel
(spec/42_assembler.md R188). -/
def sentinelLast (s : State) : Bool :=
  0 < s.cnt.val && Memory.read .buf s.buf (s.cnt.val - 1) == s.par.wgSentinel

/-- `session_end_check()` (spec/42_assembler.md R188, R189). -/
def sessionEndCheck (s : State) : State :=
  if sentinelLast s then
    csaReset
      (if Config.minHashLen ≤ s.cnt.val then send (hashLine (dgHash s.par.digest (bufMessage s))) s
      else s)
  else s

/-- `idle_timeout()` (spec/42_assembler.md R191). -/
def idleTimeout (s : State) : State :=
  if s.par.timeoutTicks < s.secs then clearSecs (csaReset (send aliveLine s)) else s

end Sys2Proof.Machine
end

