-- ==== Sys2Proof/Machine/Commands.lean ====
section
/-!
DEFINITION. The host commands (spec/44_scheduler.md section 4): what SC.CMD executes for the byte it has
popped.
-/
namespace Sys2Proof.Machine

/-- CMD.O (spec/44_scheduler.md R240). -/
def cmdOpen (s : State) : State := perform .opened s

/-- CMD.D (spec/44_scheduler.md R241). -/
def cmdDay (s : State) : State := perform .day (setMode .day s)

/-- CMD.N (spec/44_scheduler.md R242). -/
def cmdNight (s : State) : State := perform .night (setMode .night s)

/-- CMD.R (spec/44_scheduler.md R243). -/
def cmdReject (s : State) : State := perform .reject s

/-- CMD.V (spec/44_scheduler.md R244). -/
def cmdValidate (s : State) : State := perform .validate s

/-- CMD.RSVD: "the byte is consumed and nothing else happens" (spec/44_scheduler.md R245). -/
def cmdReserved (_b : Byte) (s : State) : State := s

/-- Execute the command of byte `b` (spec/44_scheduler.md R239). -/
def doCommand (b : Byte) (s : State) : State :=
  match hostCommand b with
  | .o => cmdOpen s
  | .d => cmdDay s
  | .n => cmdNight s
  | .r => cmdReject s
  | .v => cmdValidate s
  | .rsvd => cmdReserved b s

/-- The meaning of CMD.O (spec/44_scheduler.md R240). -/
def execCmdO (s : State) : Host.Outcome State Fault Refusal := .next (cmdOpen s)

/-- The meaning of CMD.D (spec/44_scheduler.md R241). -/
def execCmdD (s : State) : Host.Outcome State Fault Refusal := .next (cmdDay s)

/-- The meaning of CMD.N (spec/44_scheduler.md R242). -/
def execCmdN (s : State) : Host.Outcome State Fault Refusal := .next (cmdNight s)

/-- The meaning of CMD.R (spec/44_scheduler.md R243). -/
def execCmdR (s : State) : Host.Outcome State Fault Refusal := .next (cmdReject s)

/-- The meaning of CMD.V (spec/44_scheduler.md R244). -/
def execCmdV (s : State) : Host.Outcome State Fault Refusal := .next (cmdValidate s)

/-- The meaning of CMD.RSVD (spec/44_scheduler.md R245). -/
def execCmdRsvd (b : Byte) (s : State) : Host.Outcome State Fault Refusal := .next (cmdReserved b s)

end Sys2Proof.Machine
end

