-- ==== Sys2Proof/Machine/Scheduler.lean ====
section
/-!
DEFINITION. The Event Scheduler (spec/44_scheduler.md): SC.CYCLE and its seven branches. An operation that
names a branch is an SC.CYCLE with the check that the rules select that branch (spec/30_encoding.md R95,
R107; log entry 9).
-/
namespace Sys2Proof.Machine

/-- The branches of SC.CYCLE, in selection order (spec/30_encoding.md R95). -/
inductive Branch where
  | tick2
  | idle
  | cmd
  | cmdclr
  | frame
  | append
  | tick1
deriving DecidableEq, Repr

/-- Which branch SC.CYCLE takes (spec/44_scheduler.md R231, R233, R235). -/
def selectBranch (s : State) : Branch :=
  if s.scPhase = .tick2 then .tick2
  else if s.evf = 0#3 ∧ s.fifoCnt = 0 then .idle
  else if flagSet .rx s then (if s.rxq.isEmpty then .cmdclr else .cmd)
  else if 0 < s.fifoCnt then .frame
  else if flagSet .appended s then .append
  else .tick1

/-- SC.TICK2 (spec/44_scheduler.md R250). -/
def branchTick2 (s : State) : State := setPhase .top (clearFlag .tick (idleTimeout s))

/-- SC.IDLE (spec/44_scheduler.md R234). -/
def branchIdle (s : State) : State := { s with sleep := true }

/-- SC.CMD (spec/44_scheduler.md R239). It is selected only when `RXQ` holds a byte. -/
def branchCmd (s : State) : State :=
  match s.rxq with
  | [] => s
  | b :: bs => doCommand b { s with rxq := bs }

/-- SC.CMDCLR (spec/44_scheduler.md R246). -/
def branchCmdclr (s : State) : State := clearFlag .rx s

/-- SC.FRAME (spec/44_scheduler.md R247). It is selected only when `FIFO` holds a byte. -/
def branchFrame (s : State) : State :=
  match s.fifo with
  | [] => s
  | b :: bs => frameByte b { s with fifo := bs }

/-- SC.APPEND (spec/44_scheduler.md R248). -/
def branchAppend (s : State) : State := clearFlag .appended (sessionEndCheck s)

/-- SC.TICK1 (spec/44_scheduler.md R249). -/
def branchTick1 (s : State) : State := setPhase .tick2 (chipPoll s)

/-- One unit of work. -/
def runBranch (b : Branch) (s : State) : State :=
  match b with
  | .tick2 => branchTick2 s
  | .idle => branchIdle s
  | .cmd => branchCmd s
  | .cmdclr => branchCmdclr s
  | .frame => branchFrame s
  | .append => branchAppend s
  | .tick1 => branchTick1 s

/-- The meaning of SC.CYCLE (spec/44_scheduler.md R231): not enabled while `SLEEP = 1`. -/
def execScCycle (s : State) : Host.Outcome State Fault Refusal :=
  if s.sleep then .fault .schedulerAsleep else .next (runBranch (selectBranch s) s)

/-- An SC.CYCLE that is to take branch `b`, whose unit of work is `work`. -/
def takingBranch (b : Branch) (work : State → State) (s : State) : Host.Outcome State Fault Refusal :=
  if s.sleep then .fault .schedulerAsleep
  else if selectBranch s = b then .next (work s)
  else .refused .branchNotSelected

/-- The meaning of SC.TICK2 (spec/44_scheduler.md R250). -/
def execScTick2 (s : State) : Host.Outcome State Fault Refusal := takingBranch .tick2 branchTick2 s

/-- The meaning of SC.IDLE (spec/44_scheduler.md R234). -/
def execScIdle (s : State) : Host.Outcome State Fault Refusal := takingBranch .idle branchIdle s

/-- The meaning of SC.CMD (spec/44_scheduler.md R239). -/
def execScCmd (s : State) : Host.Outcome State Fault Refusal := takingBranch .cmd branchCmd s

/-- The meaning of SC.CMDCLR (spec/44_scheduler.md R246). -/
def execScCmdclr (s : State) : Host.Outcome State Fault Refusal := takingBranch .cmdclr branchCmdclr s

/-- The meaning of SC.FRAME (spec/44_scheduler.md R247). -/
def execScFrame (s : State) : Host.Outcome State Fault Refusal := takingBranch .frame branchFrame s

/-- The meaning of SC.APPEND (spec/44_scheduler.md R248). -/
def execScAppend (s : State) : Host.Outcome State Fault Refusal := takingBranch .append branchAppend s

/-- The meaning of SC.TICK1 (spec/44_scheduler.md R249). -/
def execScTick1 (s : State) : Host.Outcome State Fault Refusal := takingBranch .tick1 branchTick1 s

end Sys2Proof.Machine
end

