-- ==== Sys2Proof/Machine/SoftUart.lean ====
section
/-!
DEFINITION. The Software UART Decoder (spec/41_softuart.md): SU.EDGE and SU.MATCH.
-/
namespace Sys2Proof.Machine

/-- `su_emit(b)` (spec/41_softuart.md R150, R151). -/
def suEmit (b : Byte) (s : State) : State :=
  if s.fifo.length < Config.suFifoCap then { s with fifo := s.fifo ++ [b] } else raiseOverrun s

/-- `SU_ARMED <- 0` (spec/10_state.md R29). -/
def suDisarm (s : State) : State := { s with suArmed := false }

/-- `SU_STATE <- AWAIT_START` (spec/10_state.md R25). -/
def suAwait (s : State) : State := { s with suState := .awaitStart }

/-- Completion of a serial frame: disarm, emit, await the next start edge (spec/41_softuart.md R147,
R152). -/
def suFinish (s : State) : State := suAwait (suEmit s.suByte (suDisarm s))

/-- Record bits of value `v` until `n` data bits are taken, if fewer are (spec/41_softuart.md R146,
R152). -/
def suFill (v : Bool) (n : Nat) (hn : n ≤ 8) (s : State) : State :=
  { s with
    suByte := recordBits v (n - s.suBits.val) s.suBits.val s.suByte
    suBits := ⟨max s.suBits.val n, by omega⟩ }

/-- The sampling half of SU.EDGE (spec/41_softuart.md R145 to R147). The level before the transition is
the complement of `lv` (R141), so the bit recorded, which is 1 if that level was low, is `lv`. -/
def suSample (lv : Bool) (t : Nat) (s : State) : State :=
  let n := dataCells (suCells s.par (elapsed s.par t s.suOrigin))
  let s1 := suFill lv n (Nat.min_le_right _ _) s
  if s1.suBits.val = 8 then suFinish s1 else s1

/-- The start edge (spec/41_softuart.md R143). -/
def suStart (t : Nat) (s : State) : State :=
  { s with
    suOrigin := t
    suMatch := (t + s.par.suTimeout) % 2 ^ s.par.timerW
    suArmed := true
    suBits := 0
    suByte := 0#8
    suState := .sampling }

/-- SU.EDGE after the handler's entry (spec/41_softuart.md R148). -/
def suEdge (lv : Bool) (t : Nat) (s : State) : State :=
  let s1 := clearSecs s
  let s2 := if s1.suState = .sampling then suSample lv t s1 else s1
  if s2.suState = .awaitStart ∧ lv = false then suStart t s2 else s2

/-- The meaning of SU.EDGE `lv`, `t` (spec/41_softuart.md R148). A count that does not fit `TIMER_W` bits
is a reserved word (spec/30_encoding.md R91, R105). -/
def execSuEdge (lv : Bool) (t : BitVec 16) (s : State) : Host.Outcome State Fault Refusal :=
  if t.toNat < 2 ^ s.par.timerW then .next (suEdge lv t.toNat (handlerEntry s))
  else .refused .timerCountTooWide

/-- SU.MATCH after the handler's entry (spec/41_softuart.md R152, R153): low is 1, high is 0. -/
def suMatch (lv : Bool) (s : State) : State :=
  if s.suArmed then clearSecs (suFinish (suFill (!lv) 8 (Nat.le_refl 8) s)) else s

/-- The meaning of SU.MATCH `lv` (spec/41_softuart.md R152). -/
def execSuMatch (lv : Bool) (s : State) : Host.Outcome State Fault Refusal :=
  .next (suMatch lv (handlerEntry s))

end Sys2Proof.Machine
end

