-- ==== Sys2Proof/Machine/Transport.lean ====
section
/-!
DEFINITION. The tick and transport handlers and the environment's own operation
(spec/44_scheduler.md section 3): TK.TICK, BT.RX, BT.TXRDY, ENV.CARD.
-/
namespace Sys2Proof.Machine

/-- The meaning of TK.TICK (spec/44_scheduler.md R236). -/
def execTkTick (s : State) : Host.Outcome State Fault Refusal :=
  .next (raiseFlag .tick (countTick (handlerEntry s)))

/-- The meaning of BT.RX `b` (spec/44_scheduler.md R237). -/
def execBtRx (b : Byte) (s : State) : Host.Outcome State Fault Refusal :=
  .next (raiseFlag .rx (pushRx b (handlerEntry s)))

/-- The meaning of BT.TXRDY (spec/44_scheduler.md R238): nothing but the wake. -/
def execBtTxrdy (s : State) : Host.Outcome State Fault Refusal := .next (handlerEntry s)

/-- `CARD <- table[k]` (spec/44_scheduler.md R251). Where the table has no index `k`, the spec states no
value: a free one (log entry 7). -/
def placeCard (k : Byte) (s : State) : State :=
  match cardOfTable s.cardTable k.toNat with
  | some c => { s with card := c }
  | none => { s with card := Config.cardOutsideTable s.drawn k, drawn := s.drawn + 1 }

/-- The meaning of ENV.CARD `k` (spec/44_scheduler.md R251). Not an interrupt: `SLEEP` stays. -/
def execEnvCard (k : Byte) (s : State) : Host.Outcome State Fault Refusal := .next (placeCard k s)

end Sys2Proof.Machine
end

