-- ==== Sys2Proof/Machine/Wiegand.lean ====
section
/-!
DEFINITION. The Wiegand Decoder (spec/40_wiegand.md): WG.CLK.
-/
namespace Sys2Proof.Machine

/-- Bit placement: a high data line sets bit `7 - WG_BIT` of `WG_ACC` (spec/40_wiegand.md R123). -/
def wgShift (d : Bool) (s : State) : State :=
  if d then { s with wgAcc := setBit s.wgAcc (7 - s.wgBit.val) } else s

/-- `WG_BIT <- 0`, `WG_ACC <- 0` (spec/40_wiegand.md R124). -/
def wgRestart (s : State) : State := { s with wgBit := 0, wgAcc := 0#8 }

/-- The eighth bit, in the order of spec/40_wiegand.md R124. -/
def wgComplete (s : State) : State := wgRestart (raiseFlag .appended (csaWrite s.wgAcc s))

/-- WG.CLK after the handler's entry (spec/40_wiegand.md R121). -/
def wgClock (d : Bool) (s : State) : State :=
  let s1 := wgShift d (clearSecs s)
  if h : s.wgBit.val + 1 < 8 then { s1 with wgBit := ⟨s.wgBit.val + 1, h⟩ } else wgComplete s1

/-- The meaning of WG.CLK `d` (spec/40_wiegand.md R121). -/
def execWgClk (d : Bool) (s : State) : Host.Outcome State Fault Refusal :=
  .next (wgClock d (handlerEntry s))

end Sys2Proof.Machine
end

