-- ==== Sys2Proof/Machine/Dispatch.lean ====
section
/-!
DEFINITION. One arm per operation of spec/opcode_table.json.
-/
namespace Sys2Proof.Machine

def exec (i : Instr) (s : State) : Host.Outcome State Fault Refusal :=
  match i with
  -- EVT32
  | .wgClk d => Sys2Proof.Machine.execWgClk d s
  | .suEdge lv t => Sys2Proof.Machine.execSuEdge lv t s
  | .suMatch lv => Sys2Proof.Machine.execSuMatch lv s
  | .tkTick => Sys2Proof.Machine.execTkTick s
  | .btRx b => Sys2Proof.Machine.execBtRx b s
  | .btTxrdy => Sys2Proof.Machine.execBtTxrdy s
  | .envCard k => Sys2Proof.Machine.execEnvCard k s
  | .scCycle => Sys2Proof.Machine.execScCycle s
  -- branches of SC.CYCLE
  | .scTick2 => Sys2Proof.Machine.execScTick2 s
  | .scIdle => Sys2Proof.Machine.execScIdle s
  | .scCmd => Sys2Proof.Machine.execScCmd s
  | .scCmdclr => Sys2Proof.Machine.execScCmdclr s
  | .scFrame => Sys2Proof.Machine.execScFrame s
  | .scAppend => Sys2Proof.Machine.execScAppend s
  | .scTick1 => Sys2Proof.Machine.execScTick1 s
  -- CMD8
  | .cmdO => Sys2Proof.Machine.execCmdO s
  | .cmdD => Sys2Proof.Machine.execCmdD s
  | .cmdN => Sys2Proof.Machine.execCmdN s
  | .cmdR => Sys2Proof.Machine.execCmdR s
  | .cmdV => Sys2Proof.Machine.execCmdV s
  | .cmdRsvd b => Sys2Proof.Machine.execCmdRsvd b s
  -- FRM8
  | .frmStx => Sys2Proof.Machine.execFrmStx s
  | .frmEtx => Sys2Proof.Machine.execFrmEtx s
  | .frmData b => Sys2Proof.Machine.execFrmData b s

end Sys2Proof.Machine
end

