-- ==== Sys2Proof/Machine/Stimulus.lean ====
section
/-!
DEFINITION. Where the next operation comes from, and how stimulus programs are written
(spec/30_encoding.md R92, R107, R108).
-/
namespace Sys2Proof.Machine

/-! ## Fetching an operation -/

/-- The refusal that answers a reserved word (spec/30_encoding.md R105). -/
def refusalOf : DecodeError → Refusal
  | .reservedOp => .reservedOp
  | .unusedOperandBits => .unusedOperandBits

/-- The next operation the environment delivers, and the state it is applied to. -/
def fetchOperation (s : State) : Except Refusal (Instr × State) :=
  match nextStimulus s with
  | none => .error .stimulusEnded
  | some (w, s') =>
    match decodeEvt32 w with
    | .ok i => .ok (i, s')
    | .error e => .error (refusalOf e)

/-- Make `c` the next coded operation that a step executes (log entry 8). A stimulus word goes to the head
of the stimulus. A host byte goes to the head of `RXQ` and a card-frame byte to the head of `FIFO`, with
an SC.CYCLE word as the next stimulus and the scheduler awake at the top of its cycle, and with `EVF.RX`
set for the one and clear for the other, so that this cycle takes SC.CMD or SC.FRAME. -/
def placeCode (c : Code) (s : State) : State :=
  match c with
  | .evt w => { s with stim := w :: s.stim }
  | .cmd b =>
    raiseFlag .rx
      { s with rxq := b :: s.rxq, stim := cycleWord :: s.stim, sleep := false, scPhase := .top }
  | .frm b =>
    clearFlag .rx
      { s with fifo := b :: s.fifo, stim := cycleWord :: s.stim, sleep := false, scPhase := .top }

/-! ## Pseudo-operations -/

/-- `WG.BYTE b`: eight clock edges, most significant bit first (spec/30_encoding.md R108). -/
def wgByte (b : Byte) : List Instr :=
  [.wgClk (b.getLsbD 7), .wgClk (b.getLsbD 6), .wgClk (b.getLsbD 5), .wgClk (b.getLsbD 4),
    .wgClk (b.getLsbD 3), .wgClk (b.getLsbD 2), .wgClk (b.getLsbD 1), .wgClk (b.getLsbD 0)]

/-- `WG.BYTES b0, b1, ...`. -/
def wgBytes (bs : List Byte) : List Instr := bs.flatMap wgByte

/-- The line level in cell `k` of an ideal serial frame for byte `b` (spec/30_encoding.md R99, R108). -/
def cellLevel (b : Byte) (k : Nat) : Bool :=
  if k = 0 then false else if k ≤ 8 then !b.getLsbD (k - 1) else true

/-- The transitions at the starts of cells `k` to `k + n - 1`, the line being at `level` before, with
period `T` and start edge at `t0`. -/
def charEdges (b : Byte) (t0 T : Nat) : (n : Nat) → (k : Nat) → (level : Bool) → List Instr
  | 0, _, _ => []
  | n + 1, k, level =>
    if cellLevel b k = level then charEdges b t0 T n (k + 1) level
    else .suEdge (cellLevel b k) (BitVec.ofNat 16 (t0 + k * T)) ::
      charEdges b t0 T n (k + 1) (cellLevel b k)

/-- `SU.CHAR b, t0` with a bit period of `T` ticks (spec/30_encoding.md R108). -/
def suChar (b : Byte) (t0 T : Nat) : List Instr := charEdges b t0 T 10 0 true

/-- `SU.CHARM b, t0` with a bit period of `T` ticks (spec/30_encoding.md R108). -/
def suCharm (b : Byte) (t0 T : Nat) : List Instr :=
  suChar b t0 T ++ if b.getLsbD 7 then [] else [.suMatch true]

/-- `HOST.SEND s`. -/
def hostSend (bs : List Byte) : List Instr := bs.map .btRx

/-- `TICKS n`. -/
def ticks (n : Nat) : List Instr := List.replicate n .tkTick

/-! ## Stimulus assembly -/

/-- A digit of a hexadecimal literal. -/
def hexDigit (n : Nat) : Char := "0123456789ABCDEF".toList.getD n '?'

/-- A byte operand, `0x..`. -/
def byteText (b : Byte) : String :=
  "0x" ++ String.ofList [hexDigit (b.toNat / 16), hexDigit (b.toNat % 16)]

/-- A line level operand. -/
def levelText (lv : Bool) : String := if lv then "1" else "0"

/-- One line of the syntax of spec/30_encoding.md R107: the mnemonic and then its operands, separated by
commas. A branch of SC.CYCLE is written with the annotation that names it; a command or card-frame byte
is no stimulus operation and is written by its mnemonic alone. -/
def asmText (i : Instr) : String :=
  match i with
  | .wgClk d => i.mnemonic ++ " " ++ levelText d
  | .suEdge lv t => i.mnemonic ++ " " ++ levelText lv ++ ", " ++ toString t.toNat
  | .suMatch lv => i.mnemonic ++ " " ++ levelText lv
  | .btRx b => i.mnemonic ++ " " ++ byteText b
  | .envCard k => i.mnemonic ++ " " ++ toString k.toNat
  | .tkTick | .btTxrdy | .scCycle => i.mnemonic
  | .scTick2 | .scIdle | .scCmd | .scCmdclr | .scFrame | .scAppend | .scTick1 =>
    "SC.CYCLE -> " ++ i.mnemonic
  | .cmdO | .cmdD | .cmdN | .cmdR | .cmdV | .cmdRsvd _ | .frmStx | .frmEtx | .frmData _ => i.mnemonic

end Sys2Proof.Machine
end

