-- ==== Sys2Proof/Machine/Step.lean ====
section
/-!
DEFINITION. One step: the next operation the environment delivers, applied atomically
(spec/00_scope.md R15, spec/30_encoding.md R92).
-/
namespace Sys2Proof.Machine

/-- One step of the block. -/
def step (s : State) : Host.Outcome State Fault Refusal :=
  match fetchOperation s with
  | .ok (i, s') => exec i s'
  | .error r => .refused r

/-- `s` with the operation of a table row's bits stored where `step` takes its next operation
(log entry 8); unchanged for a width no row has. -/
def State.withFetchWord (s : State) (nbits w : Nat) : State :=
  match tableCode nbits w with
  | some c => placeCode c s
  | none => s

end Sys2Proof.Machine
end

