-- ==== Sys2Proof/Machine/Run.lean ====
section
/-!
DEFINITION. Runs: the operations of a list, applied in order, each atomically (spec/00_scope.md R15,
spec/30_encoding.md R92), and repeated scheduler cycles.
-/
namespace Sys2Proof.Machine

/-- Apply the operations of a list in order, stopping at the first that has no next state. -/
def runOps : List Instr → State → Host.Outcome State Fault Refusal
  | [], s => .next s
  | i :: is, s =>
    match exec i s with
    | .next s' => runOps is s'
    | .fault r => .fault r
    | .refused r => .refused r

/-- `n` scheduler cycles with no handler operation between them. -/
def cycles (n : Nat) (s : State) : Host.Outcome State Fault Refusal :=
  runOps (List.replicate n .scCycle) s

/-- `SC.RUN` (spec/30_encoding.md R108): cycles until one takes SC.IDLE, that one included, at most `n`. -/
def scRun : Nat → State → Host.Outcome State Fault Refusal
  | 0, s => .next s
  | n + 1, s =>
    match exec .scCycle s with
    | .next s' => if selectBranch s = .idle then .next s' else scRun n s'
    | .fault r => .fault r
    | .refused r => .refused r

end Sys2Proof.Machine
end

