-- ==== Sys2Proof/Safety.lean ====
section
/-!
DEFINITION. What a safe run is, in the terms claims use: the anomalies of spec/60_exceptions.md R281, the
sticky `FAULT` that a claim takes as a premise (spec/10_state.md R36), and the invariant the rules keep.
-/
namespace Sys2Proof.Machine

/-! ## Anomalies -/

/-- The anomalies AN1 to AN13 of spec/60_exceptions.md R281. The block stores none of them; the names are
for statements (decision D42). -/
inductive Anomaly where
  /-- AN1. -/
  | fifoEmpty
  /-- AN2. -/
  | noCard
  /-- AN3. -/
  | chipBusy
  /-- AN4. -/
  | frameReject
  /-- AN5. -/
  | frameStray
  /-- AN6. -/
  | frameRestart
  /-- AN7. -/
  | idleTimeout
  /-- AN8. -/
  | shortSession
  /-- AN9. -/
  | bufFull
  /-- AN10: "not explicitly detected"; `anomalies` never lists it (log entry 11). -/
  | badTiming
  /-- AN11. -/
  | suOverrun
  /-- AN12. -/
  | cmdUnknown
  /-- AN13. -/
  | spuriousMatch
deriving DecidableEq, Repr

/-- The anomaly `a`, if `c` holds. -/
def anomalyIf (c : Bool) (a : Anomaly) : List Anomaly := if c then [a] else []

/-- AN11: a byte is emitted while `FIFO` is full. -/
def overrunIf (emits : Bool) (s : State) : List Anomaly :=
  anomalyIf (emits && Config.suFifoCap ≤ s.fifo.length) .suOverrun

/-- SU.EDGE completes a serial frame (spec/41_softuart.md R147). -/
def edgeCompletes (t : Nat) (s : State) : Bool :=
  s.suState == .sampling &&
    max s.suBits.val (dataCells (suCells s.par (elapsed s.par t s.suOrigin))) == 8

/-- The anomalies of a host byte. -/
def commandAnomalies (b : Byte) : List Anomaly := anomalyIf (hostCommand b == .rsvd) .cmdUnknown

/-- The anomalies of a card-frame byte. -/
def frameAnomalies (b : Byte) (s : State) : List Anomaly :=
  match frameClass b with
  | .stx => anomalyIf s.frmColl .frameRestart
  | .etx => if s.frmColl then anomalyIf (!frameValid s) .frameReject else [.frameStray]
  | .data => anomalyIf (!s.frmColl) .frameStray

/-- The anomalies of a chip poll. -/
def pollAnomalies (s : State) : List Anomaly :=
  match s.card with
  | none => [.noCard]
  | some id =>
    if inContract s.par id then anomalyIf (s.cnt.val != 0) .chipBusy else [.noCard]

/-- The anomalies of a branch of SC.CYCLE. -/
def branchAnomalies (b : Branch) (s : State) : List Anomaly :=
  match b with
  | .tick2 => anomalyIf (s.par.timeoutTicks < s.secs) .idleTimeout
  | .idle | .cmdclr => []
  | .cmd => match s.rxq with
    | [] => []
    | x :: _ => commandAnomalies x
  | .frame => match s.fifo with
    | [] => []
    | x :: _ => frameAnomalies x s
  | .append => .fifoEmpty :: anomalyIf (sentinelLast s && s.cnt.val < Config.minHashLen) .shortSession
  | .tick1 => .fifoEmpty :: pollAnomalies s

/-- The anomalies of an operation in a state (spec/60_exceptions.md R281, R290). -/
def anomalies (i : Instr) (s : State) : List Anomaly :=
  match i with
  | .wgClk _ => anomalyIf (s.wgBit.val == 7 && Config.wgAppendLimit ≤ s.cnt.val) .bufFull
  | .suEdge _ t => overrunIf (edgeCompletes t.toNat s) s
  | .suMatch _ => if s.suArmed then overrunIf true s else [.spuriousMatch]
  | .tkTick | .btRx _ | .btTxrdy | .envCard _ => []
  | .scCycle => branchAnomalies (selectBranch s) s
  | .scTick2 => branchAnomalies .tick2 s
  | .scIdle => branchAnomalies .idle s
  | .scCmd => branchAnomalies .cmd s
  | .scCmdclr => branchAnomalies .cmdclr s
  | .scFrame => branchAnomalies .frame s
  | .scAppend => branchAnomalies .append s
  | .scTick1 => branchAnomalies .tick1 s
  | .cmdO | .cmdD | .cmdN | .cmdR | .cmdV => []
  | .cmdRsvd b => commandAnomalies b
  | .frmStx => anomalyIf s.frmColl .frameRestart
  | .frmEtx => if s.frmColl then anomalyIf (!frameValid s) .frameReject else [.frameStray]
  | .frmData _ => anomalyIf (!s.frmColl) .frameStray

/-! ## Safe runs -/

/-- A state of which claims may be made: no decoded byte has been lost (spec/10_state.md R36,
spec/93_implementation_defined.md U13). -/
abbrev safe (s : State) : Prop := s.fault = 0#1

/-- A session is open (spec/42_assembler.md R173). -/
abbrev sessionOpen (s : State) : Prop := 0 < s.cnt.val

/-! ## Words that statements use -/

/-- The operation that names a branch of SC.CYCLE (spec/30_encoding.md R95). -/
def branchOperation : Branch → Instr
  | .tick2 => .scTick2
  | .idle => .scIdle
  | .cmd => .scCmd
  | .cmdclr => .scCmdclr
  | .frame => .scFrame
  | .append => .scAppend
  | .tick1 => .scTick1

/-- The six handler operations (spec/60_exceptions.md R293). -/
def isHandler : Instr → Bool
  | .wgClk _ | .suEdge _ _ | .suMatch _ | .tkTick | .btRx _ | .btTxrdy => true
  | .envCard _ | .scCycle | .scTick2 | .scIdle | .scCmd | .scCmdclr | .scFrame | .scAppend | .scTick1 => false
  | .cmdO | .cmdD | .cmdN | .cmdR | .cmdV | .cmdRsvd _ | .frmStx | .frmEtx | .frmData _ => false

/-- The two soft-UART handlers. -/
def isSoftUart : Instr → Bool
  | .suEdge _ _ | .suMatch _ => true
  | .wgClk _ | .tkTick | .btRx _ | .btTxrdy | .envCard _ | .scCycle | .scTick2 | .scIdle | .scCmd => false
  | .scCmdclr | .scFrame | .scAppend | .scTick1 | .cmdO | .cmdD | .cmdN | .cmdR | .cmdV => false
  | .cmdRsvd _ | .frmStx | .frmEtx | .frmData _ => false

/-- The action a host byte causes, if any (spec/44_scheduler.md R240 to R245). -/
def actionOfByte (b : Byte) : Option Action :=
  if b = 0x4F#8 then some .opened
  else if b = 0x44#8 then some .day
  else if b = 0x4E#8 then some .night
  else if b = 0x52#8 then some .reject
  else if b = 0x56#8 then some .validate
  else none

/-- The XOR of the hex pairs of a character string (spec/42_assembler.md R179). -/
def pairXor : List Byte → Byte
  | a :: b :: cs => hexPair a b ^^^ pairXor cs
  | _ => 0#8

/-- A card frame as bytes between its control bytes: length, hex characters, checksum, terminator
(spec/30_encoding.md R100). -/
def cardFrameValid (fs : List Byte) : Bool :=
  fs.length == 14 && (fs.take 12).all (fun c => (hexval c).isSome) && pairXor (fs.take 12) == 0#8 &&
    fs.getD 12 0#8 == 13#8 && fs.getD 13 0#8 == 10#8

/-- The filler bytes `n, n + 1, ..., 255` (spec/43_digest.md R217). -/
def fillerFrom (n : Nat) : List Byte := (List.range (256 - n)).map (fun k => BitVec.ofNat 8 (n + k))

/-- The branches below the command branch make no progress between two states: nothing they write has
changed (spec/44_scheduler.md R235). -/
def noLowerProgress (s t : State) : Prop :=
  t.fifo = s.fifo ∧ t.frm = s.frm ∧ t.frmLen = s.frmLen ∧ t.frmColl = s.frmColl ∧ t.buf = s.buf ∧
    t.cnt = s.cnt ∧ t.secs = s.secs ∧ t.tx = s.tx ∧ flagSet .appended t = flagSet .appended s ∧
    flagSet .tick t = flagSet .tick s ∧ t.scPhase = s.scPhase

/-! ## The invariant -/

/-- A line the block may send (spec/10_state.md R41): the heartbeat, or the hash line of a 256-byte
message. -/
def outputLine (p : Params) (l : List Byte) : Prop :=
  l = aliveLine ∨ ∃ m : List Byte, m.length = 256 ∧ l = hashLine (dgHash p.digest m)

/-- The invariant of the block. Each field says which rule it comes from. -/
structure Inv (s : State) : Prop where
  /-- The constraints of spec/00_scope.md R11. -/
  params : s.par.wf
  /-- `BUF` is in canonical form. -/
  bufForm : Memory.wf .buf s.buf = true
  /-- `FRM` is in canonical form. -/
  frmForm : Memory.wf .frm s.frm = true
  /-- `BUF[i] = i` for every `i >= CNT` (spec/10_state.md R33). -/
  filler : ∀ i, s.cnt.val ≤ i → Memory.read .buf s.buf i = BitVec.ofNat 8 i
  /-- `CNT <= 255` (spec/10_state.md R23). -/
  cntBound : s.cnt.val ≤ 255
  /-- At most 16 bytes (spec/10_state.md R30). -/
  fifoBound : s.fifo.length ≤ 16
  /-- `SECS` fits `SECS_W` bits (spec/10_state.md R24). -/
  secsRange : s.secs < 2 ^ s.par.secsW
  /-- `SU_ORIGIN` fits `TIMER_W` bits (spec/10_state.md R28). -/
  originRange : s.suOrigin < 2 ^ s.par.timerW
  /-- `SU_MATCH` fits `TIMER_W` bits (spec/10_state.md R29). -/
  matchRange : s.suMatch < 2 ^ s.par.timerW
  /-- `SU_ARMED = 1` if and only if `SU_STATE = SAMPLING` (spec/10_state.md R29). -/
  armed : s.suArmed = true ↔ s.suState = .sampling
  /-- The value 8 of `SU_BITS` does not outlive an operation in `SAMPLING` (spec/10_state.md R26). -/
  bitsSampling : s.suState = .sampling → s.suBits.val < 8
  /-- Data bits not yet recorded are 0 (spec/41_softuart.md R146). -/
  byteSampling : s.suState = .sampling → ∀ k, s.suBits.val ≤ k → s.suByte.getLsbD k = false
  /-- Bits of `WG_ACC` not yet taken are 0 (spec/40_wiegand.md R123). -/
  accClear : ∀ k, k + s.wgBit.val < 8 → s.wgAcc.getLsbD k = false
  /-- No length outside a frame (spec/42_assembler.md R184). -/
  frameIdle : s.frmColl = false → s.frmLen = 0
  /-- A non-empty `RXQ` with `EVF.RX = 0` does not occur (spec/44_scheduler.md R233). -/
  rxPending : s.rxq ≠ [] → flagSet .rx s = true
  /-- `EVF.TICK` stays 1 through a tick unit (spec/44_scheduler.md R249). -/
  tickPending : s.scPhase = .tick2 → flagSet .tick s = true
  /-- The scheduler sleeps only with nothing pending (spec/44_scheduler.md R234, R332 of
  spec/70_reset_and_hazards.md). -/
  asleep : s.sleep = true → s.evf = 0#3 ∧ s.fifo = [] ∧ s.scPhase = .top
  /-- `MODE` is what the actions performed say (spec/44_scheduler.md R241, R242). -/
  modeOfActions : s.mode = s.act.foldl modeAfter s.par.modeReset
  /-- `TX` is a sequence of output lines (spec/10_state.md R41). -/
  txLines : ∃ ls : List (List Byte), s.tx = ls.flatten ∧ ∀ l ∈ ls, outputLine s.par l

end Sys2Proof.Machine
end

