-- ==== Sys2Proof/Certificates/Slice0/Obligations.lean ====
section
/-!
DEFINITION. The statements for the provers. Each docstring names the rule of spec/ it formalises; a
statement that rests on a choice of the model says so and names the log entry.

A conclusion `exec i s = .next { s with … }` says the whole frame: every field that is not named is
unchanged, every byte of `BUF` and of `FRM` with them. Where a memory is named, the statement says what
each index reads.
-/
open Sys2Proof Sys2Proof.Machine

/-! ## Encodings -/

/-- spec/30_encoding.md R90 to R97: decoding the encoding of a well-formed operation gives it back; a
branch of SC.CYCLE, which has SC.CYCLE's word, gives SC.CYCLE (R95). -/
def Obligations.DecodeOfEncode : Prop :=
  ∀ i : Instr, i.wellFormed = true → decode (encode i) = .ok i.coded

/-- spec/30_encoding.md R90 to R97: each word that decodes has one meaning, whose encoding it is. -/
def Obligations.EncodeOfDecode : Prop :=
  ∀ (c : Code) (i : Instr), decode c = .ok i → encode i = c ∧ i.wellFormed = true ∧ i.coded = i

/-- spec/opcode_table.json, format EVT32, and spec/30_encoding.md R93, R94, R105: a word decodes exactly
when a row of the table covers it, to the operation of the one row that does; a word that no row covers is
refused by the name of what is wrong with it. -/
def Obligations.StimulusWordDecodesByTable : Prop :=
  ∀ w : EvtWord,
    (∀ i, decodeEvt32 w = .ok i → (evtRows.filter fun r => r.covers w).map EvtRow.mnemonic = [i.mnemonic]) ∧
    ((∃ r ∈ evtRows, r.covers w = true) → ∃ i, decodeEvt32 w = .ok i) ∧
    ((∀ r ∈ evtRows, r.covers w = false) →
      decodeEvt32 w = .error (if 1 ≤ w.toNat / 2 ^ 24 ∧ w.toNat / 2 ^ 24 ≤ 8 then .unusedOperandBits
        else .reservedOp))

/-- Words written out in spec/30_encoding.md R107 and spec/95_test_vectors.md decode to the operations
named there. -/
def Obligations.SampleWordsDecode : Prop :=
  decodeEvt32 0x01010000#32 = .ok (.wgClk true) ∧
  decodeEvt32 0x020004B0#32 = .ok (.suEdge false 1200#16) ∧
  decodeEvt32 0x03010000#32 = .ok (.suMatch true) ∧
  decodeEvt32 0x04000000#32 = .ok .tkTick ∧
  decodeEvt32 0x054F0000#32 = .ok (.btRx 0x4F#8) ∧
  decodeEvt32 0x06000000#32 = .ok .btTxrdy ∧
  decodeEvt32 0x07010000#32 = .ok (.envCard 1#8) ∧
  decodeEvt32 0x08000000#32 = .ok .scCycle ∧
  decode (.cmd 0x4E#8) = .ok .cmdN ∧
  decode (.frm 0x02#8) = .ok .frmStx

/-- spec/30_encoding.md R92: a step takes the next word of the stimulus and applies its operation; a
reserved word is refused (R105), and so is a step after the last word (log entry 3). -/
def Obligations.StepRunsDecodedOperation : Prop :=
  (∀ (s : State) w ws i, s.stim = w :: ws → decodeEvt32 w = .ok i →
    step s = exec i { s with stim := ws }) ∧
  (∀ (s : State) w ws, s.stim = w :: ws → decodeEvt32 w = .error .reservedOp →
    step s = .refused .reservedOp) ∧
  (∀ (s : State) w ws, s.stim = w :: ws → decodeEvt32 w = .error .unusedOperandBits →
    step s = .refused .unusedOperandBits) ∧
  (∀ s : State, s.stim = [] → step s = .refused .stimulusEnded)

/-! ## The Wiegand Decoder -/

/-- spec/40_wiegand.md R121, R122, R123: WG.CLK before the eighth bit. -/
def Obligations.WgClkTakesOneBit : Prop :=
  ∀ (d : Bool) (s : State), s.wgBit.val < 7 →
    ∃ t, exec (.wgClk d) s = .next t ∧
      t = { s with sleep := false, secs := 0, wgAcc := t.wgAcc, wgBit := t.wgBit } ∧
      t.wgBit.val = s.wgBit.val + 1 ∧
      ∀ k, t.wgAcc.getLsbD k = (s.wgAcc.getLsbD k || (d && decide (k = 7 - s.wgBit.val)))

/-- spec/40_wiegand.md R121, R124 and spec/42_assembler.md R171: the eighth bit, while `CNT < 255`. -/
def Obligations.WgClkEighthBitAppends : Prop :=
  ∀ (d : Bool) (s : State), Memory.wf .buf s.buf = true → s.wgBit.val = 7 → s.cnt.val < 255 →
    ∃ t, exec (.wgClk d) s = .next t ∧
      t = { s with sleep := false, secs := 0, wgAcc := 0#8, wgBit := 0, evf := s.evf ||| 4#3,
                   buf := t.buf, cnt := t.cnt } ∧
      t.cnt.val = s.cnt.val + 1 ∧
      ∀ a, Memory.read .buf t.buf a =
        if a = s.cnt.val then (if d then s.wgAcc ||| 1#8 else s.wgAcc) else Memory.read .buf s.buf a

/-- spec/40_wiegand.md R125: at byte completion with `CNT >= 255` the byte is discarded and bit framing
continues. -/
def Obligations.WgClkFullBufferDiscards : Prop :=
  ∀ (d : Bool) (s : State), s.wgBit.val = 7 → 255 ≤ s.cnt.val →
    exec (.wgClk d) s =
      .next { s with sleep := false, secs := 0, wgAcc := 0#8, wgBit := 0, evf := s.evf ||| 4#3 }

/-- spec/40_wiegand.md R123: "after eight edges with levels `d1, d2, ..., d8` in order the byte is
`{d1, ..., d8}`, `d1` in bit 7". `wgByte b` is the eight edges whose levels are the bits of `b` in that
order (spec/30_encoding.md R108). -/
def Obligations.EightEdgesCommitTheByte : Prop :=
  ∀ (b : Byte) (s : State), Memory.wf .buf s.buf = true → s.wgBit.val = 0 → s.wgAcc = 0#8 →
    s.cnt.val < 255 →
    ∃ t, runOps (wgByte b) s = .next t ∧
      t = { s with sleep := false, secs := 0, evf := s.evf ||| 4#3, buf := t.buf, cnt := t.cnt } ∧
      t.cnt.val = s.cnt.val + 1 ∧
      ∀ a, Memory.read .buf t.buf a = if a = s.cnt.val then b else Memory.read .buf s.buf a

/-- spec/10_state.md R21, R22 and spec/70_reset_and_hazards.md R335: no operation but WG.CLK writes the
bit accumulator and the bit index; nothing resynchronises the framing. -/
def Obligations.OnlyWgClkMovesTheFraming : Prop :=
  ∀ (i : Instr) (s t : State), exec i s = .next t → (∀ d, i ≠ .wgClk d) →
    t.wgAcc = s.wgAcc ∧ t.wgBit = s.wgBit

/-! ## The Software UART Decoder -/

/-- spec/41_softuart.md R144: a low-to-high transition while awaiting a start edge. -/
def Obligations.RisingEdgeIsNoStart : Prop :=
  ∀ (t : BitVec 16) (s : State), t.toNat < 2 ^ s.par.timerW → s.suState = .awaitStart →
    exec (.suEdge true t) s = .next { s with sleep := false, secs := 0 }

/-- spec/41_softuart.md R143: the start edge. -/
def Obligations.FallingEdgeStartsAFrame : Prop :=
  ∀ (t : BitVec 16) (s : State), t.toNat < 2 ^ s.par.timerW → s.suState = .awaitStart →
    exec (.suEdge false t) s =
      .next { s with sleep := false, secs := 0, suOrigin := t.toNat,
                     suMatch := (t.toNat + s.par.suTimeout) % 2 ^ s.par.timerW,
                     suArmed := true, suBits := 0, suByte := 0#8, suState := .sampling }

/-- spec/41_softuart.md R145, R146, R148: a transition while sampling that does not complete the byte.
`e` is the elapsed time modulo `2^TIMER_W`, `c` the whole bit periods in it (R149), `n` the data cells. -/
def Obligations.TransitionRecordsElapsedCells : Prop :=
  ∀ (lv : Bool) (t : BitVec 16) (s : State) (e c n : Nat), t.toNat < 2 ^ s.par.timerW →
    s.suState = .sampling →
    e = (((t.toNat : Int) - (s.suOrigin : Int)) % (2 ^ s.par.timerW : Int)).toNat →
    c = (e * 2 ^ s.par.suFrac + s.par.suPhaseQ) / s.par.suTbitQ → n = min (c - 1) 8 →
    max s.suBits.val n < 8 →
    ∃ u, exec (.suEdge lv t) s = .next u ∧
      u = { s with sleep := false, secs := 0, suBits := u.suBits, suByte := u.suByte } ∧
      u.suBits.val = max s.suBits.val n ∧
      ∀ k, u.suByte.getLsbD k = (s.suByte.getLsbD k || (lv && decide (s.suBits.val ≤ k ∧ k < n)))

/-- spec/41_softuart.md R147, R148, R150: a transition that completes the byte emits it, and if it is
high-to-low it is the start edge of the next serial frame. -/
def Obligations.TransitionCompletesTheByte : Prop :=
  ∀ (lv : Bool) (t : BitVec 16) (s : State) (e c n : Nat), t.toNat < 2 ^ s.par.timerW →
    s.suState = .sampling →
    e = (((t.toNat : Int) - (s.suOrigin : Int)) % (2 ^ s.par.timerW : Int)).toNat →
    c = (e * 2 ^ s.par.suFrac + s.par.suPhaseQ) / s.par.suTbitQ → n = min (c - 1) 8 →
    max s.suBits.val n = 8 → s.fifo.length < 16 →
    ∃ b : Byte,
      (∀ k, b.getLsbD k = (s.suByte.getLsbD k || (lv && decide (s.suBits.val ≤ k ∧ k < n)))) ∧
      exec (.suEdge lv t) s = .next
        (if lv then
          { s with sleep := false, secs := 0, suBits := 8, suByte := b, suArmed := false,
                   suState := .awaitStart, fifo := s.fifo ++ [b] }
        else
          { s with sleep := false, secs := 0, suOrigin := t.toNat,
                   suMatch := (t.toNat + s.par.suTimeout) % 2 ^ s.par.timerW,
                   suArmed := true, suBits := 0, suByte := 0#8, suState := .sampling,
                   fifo := s.fifo ++ [b] })

/-- spec/41_softuart.md R152: the countdown match, armed, with room in the FIFO. -/
def Obligations.MatchCompletesTheByte : Prop :=
  ∀ (lv : Bool) (s : State), s.suArmed = true → s.fifo.length < 16 →
    ∃ b : Byte, (∀ k, b.getLsbD k = (s.suByte.getLsbD k || (!lv && decide (s.suBits.val ≤ k ∧ k < 8)))) ∧
      exec (.suMatch lv) s =
        .next { s with sleep := false, secs := 0, suBits := 8, suByte := b, suArmed := false,
                       suState := .awaitStart, fifo := s.fifo ++ [b] }

/-- spec/41_softuart.md R153: the countdown match with nothing armed. -/
def Obligations.SpuriousMatchOnlyWakes : Prop :=
  ∀ (lv : Bool) (s : State), s.suArmed = false → exec (.suMatch lv) s = .next { s with sleep := false }

/-- spec/41_softuart.md R151: a byte emitted while the FIFO holds 16 bytes is dropped, the FIFO keeps its
bytes and `FAULT.SU_OVR` is set, at a match and at a transition; the soft-UART registers are as after a byte
that is pushed (R147, R152). `e`, `c` and `n` are as in `TransitionCompletesTheByte`. -/
def Obligations.FullFifoDropsTheByte : Prop :=
  (∀ (lv : Bool) (s : State), s.suArmed = true → s.fifo.length = 16 →
    ∃ b : Byte, (∀ k, b.getLsbD k = (s.suByte.getLsbD k || (!lv && decide (s.suBits.val ≤ k ∧ k < 8)))) ∧
      exec (.suMatch lv) s =
        .next { s with sleep := false, secs := 0, suBits := 8, suByte := b, suArmed := false,
                       suState := .awaitStart, fault := 1#1 }) ∧
  (∀ (lv : Bool) (t : BitVec 16) (s : State) (e c n : Nat), t.toNat < 2 ^ s.par.timerW →
    s.suState = .sampling →
    e = (((t.toNat : Int) - (s.suOrigin : Int)) % (2 ^ s.par.timerW : Int)).toNat →
    c = (e * 2 ^ s.par.suFrac + s.par.suPhaseQ) / s.par.suTbitQ → n = min (c - 1) 8 →
    max s.suBits.val n = 8 → s.fifo.length = 16 →
    ∃ b : Byte,
      (∀ k, b.getLsbD k = (s.suByte.getLsbD k || (lv && decide (s.suBits.val ≤ k ∧ k < n)))) ∧
      exec (.suEdge lv t) s = .next
        (if lv then
          { s with sleep := false, secs := 0, suBits := 8, suByte := b, suArmed := false,
                   suState := .awaitStart, fault := 1#1 }
        else
          { s with sleep := false, secs := 0, suOrigin := t.toNat,
                   suMatch := (t.toNat + s.par.suTimeout) % 2 ^ s.par.timerW,
                   suArmed := true, suBits := 0, suByte := 0#8, suState := .sampling,
                   fault := 1#1 }))

/-- spec/41_softuart.md R149: of `su_cells` a model assumes "`su_cells(0) = 0`, and `su_cells` is
non-decreasing"; both hold of the formula under the constraints of spec/00_scope.md R11. -/
def Obligations.CellCountStartsAtZeroAndGrows : Prop :=
  ∀ p : Params, p.wf → suCells p 0 = 0 ∧ ∀ e f, e ≤ f → suCells p e ≤ suCells p f

/-- spec/41_softuart.md R145 and spec/70_reset_and_hazards.md R341: a wrap of the timer between the start
edge and a transition is harmless while the true elapsed time is below `2^TIMER_W`. -/
def Obligations.TimerWrapIsHarmless : Prop :=
  ∀ (p : Params) (origin e : Nat), origin < 2 ^ p.timerW → e < 2 ^ p.timerW →
    elapsed p ((origin + e) % 2 ^ p.timerW) origin = e

/-- spec/30_encoding.md R99, R108 and spec/41_softuart.md R154, R157: an ideal serial frame for the byte
`b`, with a bit period of `T` ticks and its start edge at any count, decodes to exactly the byte `b`. -/
def Obligations.IdealSerialFrameDecodes : Prop :=
  ∀ (b : Byte) (t0 T : Nat) (s : State), s.par.timerW = 16 → s.par.suPhaseQ = 0 →
    s.par.suTbitQ = T * 2 ^ s.par.suFrac → 0 < T → 9 * T < 2 ^ 16 → t0 < 2 ^ 16 →
    s.suState = .awaitStart → s.fifo.length < 16 →
    runOps (suCharm b t0 T) s =
      .next { s with sleep := false, secs := 0, suOrigin := t0,
                     suMatch := (t0 + s.par.suTimeout) % 2 ^ 16, suArmed := false, suBits := 8,
                     suByte := b, suState := .awaitStart, fifo := s.fifo ++ [b] }

/-- spec/30_encoding.md R91, R105: a timer count of more than `TIMER_W` bits is a reserved word; the
refusal's name is the model's (log entry 10). -/
def Obligations.WideTimerCountIsRefused : Prop :=
  ∀ (lv : Bool) (t : BitVec 16) (s : State), 2 ^ s.par.timerW ≤ t.toNat →
    exec (.suEdge lv t) s = .refused .timerCountTooWide

/-! ## The Card Session Assembler -/

/-- spec/42_assembler.md R175: FRM.STX. -/
def Obligations.FrameStartRestartsCollection : Prop :=
  ∀ s : State, exec .frmStx s = .next { s with frmLen := 0, frmColl := true }

/-- spec/42_assembler.md R176: FRM.DATA stores a byte, marks the frame over-long, or discards the byte. -/
def Obligations.FrameDataIsCollected : Prop :=
  ∀ (b : Byte) (s : State), Memory.wf .frm s.frm = true →
    (s.frmColl = true → s.frmLen.val < 14 →
      ∃ t, exec (.frmData b) s = .next t ∧ t = { s with frm := t.frm, frmLen := t.frmLen } ∧
        t.frmLen.val = s.frmLen.val + 1 ∧
        ∀ a, Memory.read .frm t.frm a = if a = s.frmLen.val then b else Memory.read .frm s.frm a) ∧
    (s.frmColl = true → 14 ≤ s.frmLen.val → exec (.frmData b) s = .next { s with frmLen := 15 }) ∧
    (s.frmColl = false → exec (.frmData b) s = .next s)

/-- spec/42_assembler.md R177 to R182, R184: FRM.ETX of a valid frame commits its first ten characters,
verbatim, and acknowledges. -/
def Obligations.ValidFrameCommitsTenCharacters : Prop :=
  ∀ s : State, Memory.wf .buf s.buf = true → s.frmColl = true → s.frmLen.val = 14 → s.cnt.val = 0 →
    (∀ i, i < 12 → (hexval (Memory.read .frm s.frm i)).isSome = true) →
    pairXor (Memory.bytes .frm s.frm 0 12) = 0#8 →
    Memory.read .frm s.frm 12 = 13#8 → Memory.read .frm s.frm 13 = 10#8 →
    ∃ t, exec .frmEtx s = .next t ∧
      t = { s with buf := t.buf, cnt := 10, act := s.act ++ [.blink3], frmLen := 0, frmColl := false } ∧
      ∀ a, Memory.read .buf t.buf a =
        if a < 10 then Memory.read .frm s.frm a else Memory.read .buf s.buf a

/-- spec/42_assembler.md R177 to R181, R183, R184: FRM.ETX with any condition violated discards the frame
silently. -/
def Obligations.InvalidFrameIsDiscarded : Prop :=
  ∀ s : State,
    (s.frmColl = false ∨ s.frmLen.val ≠ 14 ∨ s.cnt.val ≠ 0 ∨
      (∃ i, i < 12 ∧ hexval (Memory.read .frm s.frm i) = none) ∨
      pairXor (Memory.bytes .frm s.frm 0 12) ≠ 0#8 ∨
      Memory.read .frm s.frm 12 ≠ 13#8 ∨ Memory.read .frm s.frm 13 ≠ 10#8) →
    exec .frmEtx s = .next { s with frmLen := 0, frmColl := false }

/-- spec/42_assembler.md R178 and property T3 of spec/95_test_vectors.md: "any single bit flip in the
checksum region causes rejection (no buffer mutation)". -/
def Obligations.SingleBitFlipIsRejected : Prop :=
  ∀ (s s' : State) (j k : Nat), frameValid s = true → j < 12 → k < 8 →
    (∀ i, i ≠ j → Memory.read .frm s'.frm i = Memory.read .frm s.frm i) →
    Memory.read .frm s'.frm j = Memory.read .frm s.frm j ^^^ (1#8 <<< k) →
    exec .frmEtx s' = .next { s' with frmLen := 0, frmColl := false }

/-- spec/42_assembler.md R174 to R184, spec/30_encoding.md R100: a frame start, any data bytes and a frame
end commit the first ten bytes exactly when the data are a valid card frame and the buffer is empty, and
change nothing but the frame registers otherwise. -/
def Obligations.WholeCardFrameIsAtomic : Prop :=
  ∀ (fs : List Byte) (s : State), Memory.wf .buf s.buf = true → Memory.wf .frm s.frm = true →
    (∀ b ∈ fs, b ∉ controlBytes) →
    ∃ t, runOps (.frmStx :: fs.map .frmData ++ [.frmEtx]) s = .next t ∧
      t = { s with frm := t.frm, frmLen := 0, frmColl := false, buf := t.buf, cnt := t.cnt, act := t.act } ∧
      (if cardFrameValid fs = true ∧ s.cnt.val = 0 then
        t.cnt.val = 10 ∧ t.act = s.act ++ [.blink3] ∧
          ∀ a, Memory.read .buf t.buf a = if a < 10 then fs.getD a 0#8 else Memory.read .buf s.buf a
      else t.buf = s.buf ∧ t.cnt = s.cnt ∧ t.act = s.act)

/-- spec/42_assembler.md R185 to R187 and spec/44_scheduler.md R249: SC.TICK1 commits the identifier of a
card in the field into an empty buffer; with no card, an identifier outside the contract or a buffer that
is not empty it changes nothing but `SC_PHASE`. -/
def Obligations.ChipPollCommitsIffEmpty : Prop :=
  ∀ s : State, s.sleep = false → s.scPhase = .top → flagSet .rx s = false → s.fifo = [] →
    flagSet .appended s = false → flagSet .tick s = true → Memory.wf .buf s.buf = true →
    (∀ id, s.card = some id → 1 ≤ id.length → id.length ≤ s.par.chipIdMax.toNat → s.cnt.val = 0 →
      ∃ t, exec .scTick1 s = .next t ∧
        t = { s with buf := t.buf, cnt := t.cnt, act := s.act ++ [.blink3], scPhase := .tick2 } ∧
        t.cnt.val = id.length ∧
        ∀ a, Memory.read .buf t.buf a =
          if a < id.length then id.getD a 0#8 else Memory.read .buf s.buf a) ∧
    ((s.card = none ∨ s.cnt.val ≠ 0 ∨
      (∃ id, s.card = some id ∧ (id.length = 0 ∨ s.par.chipIdMax.toNat < id.length))) →
      exec .scTick1 s = .next { s with scPhase := .tick2 })

/-- spec/42_assembler.md R188, R189 and spec/44_scheduler.md R248: the three outcomes of SC.APPEND; the
digest is of all 256 bytes of `BUF` (spec/43_digest.md R214). -/
def Obligations.SessionEndHasThreeOutcomes : Prop :=
  ∀ s : State, s.sleep = false → s.scPhase = .top → flagSet .rx s = false → s.fifo = [] →
    flagSet .appended s = true →
    ((s.cnt.val = 0 ∨ Memory.read .buf s.buf (s.cnt.val - 1) ≠ s.par.wgSentinel) →
      exec .scAppend s = .next { s with evf := s.evf &&& 3#3 }) ∧
    (0 < s.cnt.val → Memory.read .buf s.buf (s.cnt.val - 1) = s.par.wgSentinel → s.cnt.val < 10 →
      exec .scAppend s = .next { s with evf := s.evf &&& 3#3, buf := [], cnt := 0 }) ∧
    (Memory.read .buf s.buf (s.cnt.val - 1) = s.par.wgSentinel → 10 ≤ s.cnt.val →
      exec .scAppend s =
        .next { s with evf := s.evf &&& 3#3, buf := [], cnt := 0,
                       tx := s.tx ++ hashLine (digestFn s.par.digest
                         ((List.range 256).map (fun i => Memory.read .buf s.buf i))) })

/-- spec/42_assembler.md R172: after the reset of the buffer byte `i` holds value `i` and `CNT` is 0, and
nothing else is touched. -/
def Obligations.BufferResetRestoresTheFiller : Prop :=
  ∀ s : State, csaReset s = { s with buf := (csaReset s).buf, cnt := 0 } ∧
    ∀ i, i < 256 → Memory.read .buf (csaReset s).buf i = BitVec.ofNat 8 i

/-- spec/43_digest.md R217: for every byte string `B` of 10 to 255 bytes whose last byte is the sentinel,
sent on the Wiegand line into an empty buffer, the SC.APPEND that sees it appends to `TX` exactly
`hash_line(DIGEST_FN(B ++ [len(B), len(B)+1, ..., 255]))`, and the buffer is empty again. -/
def Obligations.WiegandSessionIsHashed : Prop :=
  ∀ (B : List Byte) (s : State), 10 ≤ B.length → B.length ≤ 255 → B.getLast? = some s.par.wgSentinel →
    s.cnt.val = 0 → s.buf = [] → s.wgBit.val = 0 → s.wgAcc = 0#8 → s.scPhase = .top →
    flagSet .rx s = false → s.fifo = [] →
    runOps (wgBytes B ++ [.scAppend]) s =
      .next { s with sleep := false, secs := 0, evf := s.evf &&& 3#3,
                     tx := s.tx ++ hashLine (digestFn s.par.digest (B ++ fillerFrom B.length)) }

/-- spec/42_assembler.md R191, R192 and spec/44_scheduler.md R250: SC.TICK2 fires the idle timeout exactly
when `SECS` exceeds ten seconds' worth of ticks; `buf := []` is the filler pattern. -/
def Obligations.IdleTimeoutFiresPastTheThreshold : Prop :=
  ∀ s : State, s.sleep = false → s.scPhase = .tick2 →
    (10 * s.par.tickHz < s.secs →
      exec .scTick2 s =
        .next { s with tx := s.tx ++ [0x41#8, 0x4C#8, 0x49#8, 0x56#8, 0x45#8, 0x0A#8], buf := [],
                       cnt := 0, secs := 0, evf := s.evf &&& 5#3, scPhase := .top }) ∧
    (s.secs ≤ 10 * s.par.tickHz →
      exec .scTick2 s = .next { s with evf := s.evf &&& 5#3, scPhase := .top })

/-- spec/70_reset_and_hazards.md R322, spec/42_assembler.md R191 and property T5 of
spec/95_test_vectors.md: a silent block, from reset. If `n` ticks are served together, nothing is sent up to
`TIMEOUT_TICKS` and `ALIVE` once above. If each tick is served as it comes, `ALIVE` is sent at every tick
whose number is a multiple of `TIMEOUT_TICKS + 1`, first at tick number `TIMEOUT_TICKS + 1`, and at no other.
That the buffer's filler is the empty list is the model's choice (log entry 13). -/
def Obligations.SilentBlockSendsAlive : Prop :=
  ∀ (p : Params) (n : Nat), p.wf → 0 < n →
    (n < 2 ^ p.secsW →
      runOps (ticks n ++ [.scTick1, .scTick2, .scIdle]) (State.resetWith p) =
        .next { State.resetWith p with
                  tx := if p.timeoutTicks < n then aliveLine else [],
                  secs := if p.timeoutTicks < n then 0 else n, buf := [], cnt := 0, sleep := true }) ∧
    runOps (List.replicate n [.tkTick, .scTick1, .scTick2, .scIdle]).flatten (State.resetWith p) =
      .next { State.resetWith p with
                tx := (List.replicate (n / (p.timeoutTicks + 1)) aliveLine).flatten,
                secs := n % (p.timeoutTicks + 1), buf := [], cnt := 0, sleep := true }

/-! ## The scheduler -/

/-- spec/44_scheduler.md R231 and the "selected_when" of spec/opcode_table.json: when each branch of
SC.CYCLE is selected. -/
def Obligations.BranchSelectionFollowsTheTable : Prop :=
  ∀ s : State,
    (selectBranch s = .tick2 ↔ s.scPhase = .tick2) ∧
    (selectBranch s = .idle ↔ s.scPhase = .top ∧ s.evf = 0#3 ∧ s.fifoCnt = 0) ∧
    (selectBranch s = .cmd ↔ s.scPhase = .top ∧ flagSet .rx s = true ∧ s.rxq ≠ []) ∧
    (selectBranch s = .cmdclr ↔ s.scPhase = .top ∧ flagSet .rx s = true ∧ s.rxq = []) ∧
    (selectBranch s = .frame ↔ s.scPhase = .top ∧ flagSet .rx s = false ∧ 0 < s.fifoCnt) ∧
    (selectBranch s = .append ↔ s.scPhase = .top ∧ flagSet .rx s = false ∧ s.fifoCnt = 0 ∧
      flagSet .appended s = true) ∧
    (selectBranch s = .tick1 ↔ s.scPhase = .top ∧ flagSet .rx s = false ∧ s.fifoCnt = 0 ∧
      flagSet .appended s = false ∧ flagSet .tick s = true)

/-- spec/44_scheduler.md R231 and spec/30_encoding.md R95: an enabled SC.CYCLE completes, and does what
the operation of the branch it selects does. -/
def Obligations.CycleRunsTheSelectedBranch : Prop :=
  ∀ s : State, s.sleep = false →
    ∃ t, exec .scCycle s = .next t ∧ exec (branchOperation (selectBranch s)) s = .next t

/-- spec/44_scheduler.md R231, spec/93_implementation_defined.md U16: while `SLEEP = 1` SC.CYCLE is not
enabled. That an operation naming a branch that is not selected is refused is the model's choice (log
entry 9). -/
def Obligations.CycleStopsWhereNotEnabled : Prop :=
  (∀ s : State, s.sleep = true → exec .scCycle s = .fault .schedulerAsleep) ∧
  (∀ (s : State) (b : Branch), s.sleep = true → exec (branchOperation b) s = .fault .schedulerAsleep) ∧
  (∀ (s : State) (b : Branch), s.sleep = false → selectBranch s ≠ b →
    exec (branchOperation b) s = .refused .branchNotSelected)

/-- spec/44_scheduler.md R234: SC.IDLE. -/
def Obligations.IdleSetsSleep : Prop :=
  ∀ s : State, s.sleep = false → s.scPhase = .top → s.evf = 0#3 → s.fifo = [] →
    exec .scIdle s = .next { s with sleep := true }

/-- spec/44_scheduler.md R239: SC.CMD pops the oldest byte of `RXQ` and executes its command. -/
def Obligations.CommandBranchExecutesOneByte : Prop :=
  ∀ (s : State) (b : Byte) (bs : List Byte), s.sleep = false → s.scPhase = .top → flagSet .rx s = true →
    s.rxq = b :: bs →
    ∃ t, exec .scCmd s = .next t ∧ exec (decodeCmd8 b) { s with rxq := bs } = .next t

/-- spec/44_scheduler.md R246: SC.CMDCLR. -/
def Obligations.DrainedQueueClearsTheFlag : Prop :=
  ∀ s : State, s.sleep = false → s.scPhase = .top → flagSet .rx s = true → s.rxq = [] →
    exec .scCmdclr s = .next { s with evf := s.evf &&& 6#3 }

/-- spec/44_scheduler.md R247: SC.FRAME pops the oldest byte of `FIFO` and assembles it. -/
def Obligations.FrameBranchTakesOneByte : Prop :=
  ∀ (s : State) (b : Byte) (bs : List Byte), s.sleep = false → s.scPhase = .top →
    flagSet .rx s = false → s.fifo = b :: bs →
    ∃ t, exec .scFrame s = .next t ∧ exec (decodeFrm8 b) { s with fifo := bs } = .next t

/-- spec/44_scheduler.md R240 to R245: the six classes of host bytes. -/
def Obligations.CommandsDoWhatTheirLettersSay : Prop :=
  ∀ s : State,
    exec .cmdO s = .next { s with act := s.act ++ [.opened] } ∧
    exec .cmdD s = .next { s with mode := .day, act := s.act ++ [.day] } ∧
    exec .cmdN s = .next { s with mode := .night, act := s.act ++ [.night] } ∧
    exec .cmdR s = .next { s with act := s.act ++ [.reject] } ∧
    exec .cmdV s = .next { s with act := s.act ++ [.validate] } ∧
    ∀ b, exec (.cmdRsvd b) s = .next s

/-- spec/44_scheduler.md R239: each command's pulse sequence is `PATTERN[k]` "evaluated with the value of
`MODE` after the command". -/
def Obligations.CommandPulsesUseTheNewMode : Prop :=
  ∀ (i : Instr) (k : Action) (s t : State),
    (i, k) ∈ [(Instr.cmdO, Action.opened), (.cmdD, .day), (.cmdN, .night), (.cmdR, .reject),
      (.cmdV, .validate)] →
    s.mode = s.act.foldl modeAfter s.par.modeReset → exec i s = .next t →
    t.pulses = s.pulses ++ Config.pattern k t.mode

/-- spec/44_scheduler.md R239, R253 and spec/90_conflicts.md C8: all host bytes that arrive before the
first SC.CMD are executed, in order, one a cycle. -/
def Obligations.QueuedCommandsRunInOrder : Prop :=
  ∀ (bs : List Byte) (s : State), s.scPhase = .top → s.rxq = [] → bs ≠ [] →
    ∃ t, runOps (hostSend bs ++ List.replicate bs.length .scCycle ++ [.scCmdclr]) s = .next t ∧
      t = { s with sleep := false, evf := s.evf &&& 6#3, act := s.act ++ bs.filterMap actionOfByte,
                   mode := (bs.filterMap actionOfByte).foldl modeAfter s.mode }

/-- spec/44_scheduler.md R235 and property T7 of spec/95_test_vectors.md: while `EVF.RX = 1` at the top of
the cycle, no cycle makes progress in a lower-priority branch. -/
def Obligations.CommandsComeFirst : Prop :=
  ∀ s t : State, s.scPhase = .top → flagSet .rx s = true → exec .scCycle s = .next t → noLowerProgress s t

/-- spec/44_scheduler.md R254: from any state with `SLEEP = 0`, without handler operations, at most
`len(RXQ) + 1 + FIFO_CNT + 1 + 2` cycles plus one for SC.IDLE reach SC.IDLE. -/
def Obligations.CyclesReachIdle : Prop :=
  ∀ s : State, s.sleep = false →
    ∃ n t, n ≤ s.rxq.length + 1 + s.fifoCnt + 1 + 2 + 1 ∧ cycles n s = .next t ∧ t.sleep = true ∧
      t.evf = 0#3 ∧ t.fifo = [] ∧ t.scPhase = .top

/-! ## Ticks, transport and environment -/

/-- spec/44_scheduler.md R236: TK.TICK; the count wraps at `2^SECS_W` (spec/70_reset_and_hazards.md
R340). -/
def Obligations.TickCountsAndRaises : Prop :=
  ∀ s : State, exec .tkTick s =
    .next { s with sleep := false, secs := (s.secs + 1) % 2 ^ s.par.secsW, evf := s.evf ||| 2#3 }

/-- spec/44_scheduler.md R253 and spec/20_memory.md R78: `n` ticks before their service leave one pending
tick and all `n` increments of `SECS`. -/
def Obligations.TicksCoalesce : Prop :=
  ∀ (n : Nat) (s : State), 0 < n →
    runOps (ticks n) s =
      .next { s with sleep := false, secs := (s.secs + n) % 2 ^ s.par.secsW, evf := s.evf ||| 2#3 }

/-- spec/44_scheduler.md R237, R238: BT.RX and BT.TXRDY. -/
def Obligations.TransportHandlers : Prop :=
  (∀ (b : Byte) (s : State), exec (.btRx b) s =
    .next { s with sleep := false, rxq := s.rxq ++ [b], evf := s.evf ||| 1#3 }) ∧
  (∀ s : State, exec .btTxrdy s = .next { s with sleep := false })

/-- spec/44_scheduler.md R251: ENV.CARD sets `CARD` from the card table and nothing else; for an index
the table does not have, `CARD` takes a free value (log entry 7) and nothing else but the count of such
values changes. -/
def Obligations.EnvironmentPlacesCards : Prop :=
  ∀ (k : Byte) (s : State),
    (k = 0#8 → exec (.envCard k) s = .next { s with card := none }) ∧
    (∀ id, k ≠ 0#8 → s.cardTable[k.toNat - 1]? = some id →
      exec (.envCard k) s = .next { s with card := some id }) ∧
    (k ≠ 0#8 → s.cardTable.length < k.toNat →
      ∃ c, exec (.envCard k) s = .next { s with card := c, drawn := s.drawn + 1 })

/-- spec/42_assembler.md R194 and spec/60_exceptions.md R288: the race of a Wiegand byte and a chip poll.
If WG.CLK completes its byte first, the identifier is discarded; if SC.TICK1 comes first, the byte is
appended after the identifier. -/
def Obligations.RaceDecidedByOrder : Prop :=
  ∀ (d : Bool) (id : List Byte) (b : Byte) (s : State), s.sleep = false → s.scPhase = .top →
    s.evf = 2#3 → s.fifo = [] → s.buf = [] → s.cnt.val = 0 → s.wgBit.val = 7 →
    b = (if d then s.wgAcc ||| 1#8 else s.wgAcc) → b ≠ s.par.wgSentinel →
    s.card = some id → 1 ≤ id.length → id.length ≤ s.par.chipIdMax.toNat → id.length < 255 →
    (∃ t, runOps [.wgClk d, .scAppend, .scTick1] s = .next t ∧ t.cnt.val = 1 ∧ t.act = s.act ∧
      Memory.read .buf t.buf 0 = b) ∧
    (∃ t, runOps [.scTick1, .wgClk d] s = .next t ∧ t.cnt.val = id.length + 1 ∧
      t.act = s.act ++ [.blink3] ∧ Memory.read .buf t.buf id.length = b ∧
      ∀ a, a < id.length → Memory.read .buf t.buf a = id.getD a 0#8)

/-! ## Reset, totality, who writes what -/

/-- spec/10_state.md R49 and spec/70_reset_and_hazards.md R321: the state after reset, whatever the
parameters. That no byte of the two memories is listed, and that the model's own fields hold no stimulus,
no card table and no drawn value, is the model's choice (log entries 6 and 13), and so is the choice
of `Config.params` (log entry 2). -/
def Obligations.ResetState : Prop :=
  ∀ p : Params,
    (∀ i, i < 256 → Memory.read .buf (State.resetWith p).buf i = BitVec.ofNat 8 i) ∧
    State.resetWith p =
      { (State.resetWith p) with
        wgAcc := 0#8, wgBit := 0, cnt := 0, secs := 0, suState := .awaitStart, suBits := 0, suByte := 0#8,
        suOrigin := 0, suArmed := false, suMatch := 0, frmLen := 0, frmColl := false, evf := 0#3,
        mode := p.modeReset, fault := 0#1, sleep := false, scPhase := .top, fifo := [], rxq := [],
        tx := [], act := [], card := none, par := p, buf := [], frm := [], stim := [], cardTable := [],
        drawn := 0 } ∧
    State.reset = State.resetWith Config.params

/-- spec/60_exceptions.md R280: every operation that is enabled in every state is total. The premise on
SU.EDGE is the operand's width (spec/30_encoding.md R91). -/
def Obligations.OperationsAreTotal : Prop :=
  ∀ (i : Instr) (s : State), i ≠ .scCycle → (∀ b, i ≠ branchOperation b) →
    (∀ lv t, i = .suEdge lv t → t.toNat < 2 ^ s.par.timerW) → ∃ t, exec i s = .next t

/-- spec/60_exceptions.md R293 and spec/10_state.md R37: every handler operation clears `SLEEP`; of the
others only SC.IDLE, on its own or as the branch of an SC.CYCLE, changes it, and sets it. -/
def Obligations.HandlersWakeOnlyIdleSleeps : Prop :=
  ∀ (i : Instr) (s t : State), exec i s = .next t →
    (isHandler i = true → t.sleep = false) ∧
    (isHandler i = false → t.sleep = s.sleep ∨
      (t.sleep = true ∧ selectBranch s = .idle ∧ (i = .scIdle ∨ i = .scCycle)))

/-- spec/10_state.md R48, the write entries of the access matrix, row by row: a unit that the row gives no
`w` does not change that state. The operations that are no handler, ENV.CARD apart, are SC.CYCLE, its
branches and the commands and frame bytes inside them, and stand in the matrix's last column. ENV.CARD has no
column: it changes `CARD` and no other state of the block (spec/44_scheduler.md R251). The last clause is
about the model's own fields, which R48 does not have (log entries 1, 3 and 7). -/
def Obligations.AccessMatrixHolds : Prop :=
  ∀ (i : Instr) (s t : State), exec i s = .next t →
    ((∀ d, i ≠ .wgClk d) → t.wgAcc = s.wgAcc ∧ t.wgBit = s.wgBit) ∧
    (isHandler i = true → (∀ d, i ≠ .wgClk d) → t.buf = s.buf ∧ t.cnt = s.cnt) ∧
    ((∃ b, i = .btRx b) ∨ i = .btTxrdy → t.secs = s.secs) ∧
    (isSoftUart i = false → t.suState = s.suState ∧ t.suBits = s.suBits ∧ t.suByte = s.suByte ∧
      t.suOrigin = s.suOrigin ∧ t.suArmed = s.suArmed ∧ t.suMatch = s.suMatch ∧ t.fault = s.fault) ∧
    (isHandler i = true → isSoftUart i = false → t.fifo = s.fifo ∧ t.fifoCnt = s.fifoCnt) ∧
    (isHandler i = true → t.frm = s.frm ∧ t.frmLen = s.frmLen ∧ t.frmColl = s.frmColl) ∧
    (isHandler i = true → (∀ b, i ≠ .btRx b) → flagSet .rx t = flagSet .rx s ∧ t.rxq = s.rxq) ∧
    (isHandler i = true → i ≠ .tkTick → flagSet .tick t = flagSet .tick s) ∧
    (isHandler i = true → (∀ d, i ≠ .wgClk d) → flagSet .appended t = flagSet .appended s) ∧
    (isHandler i = true → t.mode = s.mode ∧ t.scPhase = s.scPhase ∧ t.tx = s.tx ∧ t.act = s.act) ∧
    ((∀ k, i ≠ .envCard k) → t.card = s.card) ∧
    ((∃ k, i = .envCard k) → t = { s with card := t.card, drawn := t.drawn }) ∧
    t.par = s.par ∧ t.stim = s.stim ∧ t.cardTable = s.cardTable ∧
      ((∀ k, i ≠ .envCard k) → t.drawn = s.drawn)

/-- spec/10_state.md R36: `FAULT.SU_OVR` is set only by a byte emitted at a full FIFO, anomaly AN11 of
spec/60_exceptions.md R281, and no operation clears it. -/
def Obligations.FaultIsStickyAndOnlyOverrun : Prop :=
  ∀ (i : Instr) (s t : State), exec i s = .next t →
    (s.fault = 1#1 → t.fault = 1#1) ∧ (s.fault = 0#1 → (t.fault = 1#1 ↔ .suOverrun ∈ anomalies i s))

/-- spec/10_state.md R41, R42 and spec/60_exceptions.md R282: an operation appends to `TX` nothing, the
heartbeat line of AN7, or the hash line of the buffer, and to `ACT` at most one entry. -/
def Obligations.OutputsOnlyGrow : Prop :=
  ∀ (i : Instr) (s t : State), exec i s = .next t →
    (t.tx = s.tx ∨ (t.tx = s.tx ++ aliveLine ∧ .idleTimeout ∈ anomalies i s) ∨
      t.tx = s.tx ++ hashLine (digestFn s.par.digest (bufMessage s))) ∧
    (t.act = s.act ∨ ∃ k, t.act = s.act ++ [k])

/-! ## The digest -/

/-- spec/43_digest.md R213, the three phases. "the contract is `final(update(...update(init, s1)..., sk)) =
DIGEST_FN(s1 ++ ... ++ sk)` for every split of the message". `init` has an empty block buffer and length 0;
`update` of a block hash, from a buffer of less than a block, compresses each full 64-byte block into the
160-bit state, keeps the rest in the buffer and adds to the length counter. -/
def Obligations.DigestSplitsFreely : Prop :=
  (∀ (f : DigestFn) (parts : List (List Byte)),
    digestFinal f (parts.foldl (digestUpdate f) (digestInit f)) = digestFn f parts.flatten) ∧
  (∀ f : DigestFn, (digestInit f).block = [] ∧ (digestInit f).length = 0) ∧
  (∀ h : BlockHash, (digestInit (.blockHash h)).hash = hashInit h) ∧
  (∀ (h : BlockHash) (c : DigestContext) (bs : List Byte), c.block.length < 64 →
    digestUpdate (.blockHash h) c bs =
      { hash := compressAll h c.hash (c.block ++ bs),
        block := (c.block ++ bs).drop (64 * ((c.block ++ bs).length / 64)),
        length := c.length + bs.length })

/-- spec/30_encoding.md R102 and spec/43_digest.md R216: the hash line has 46 bytes, begins with `HASH+`,
ends with a line feed, and its characters `2j` and `2j + 1` after the literal are the upper-case hex
characters of the high and the low nibble of digest byte `j`. -/
def Obligations.HashLineRendersTheDigest : Prop :=
  ∀ g : Vector Byte 20,
    (hashLine g).length = 46 ∧ (hashLine g).take 5 = [0x48#8, 0x41#8, 0x53#8, 0x48#8, 0x2B#8] ∧
    (hashLine g).getLast? = some 0x0A#8 ∧
    ∀ (j : Nat) (hj : j < 20),
      hexval ((hashLine g).getD (5 + 2 * j) 0#8) = some ((g[j]).extractLsb' 4 4) ∧
      hexval ((hashLine g).getD (6 + 2 * j) 0#8) = some ((g[j]).extractLsb' 0 4)

/-! ## The invariant -/

/-- Every step keeps the invariant: the filler above `CNT` (spec/10_state.md R33), the range of every
register (R20, R23, R24, R26, R28, R30), the armed countdown (R29), the bit accumulators
(spec/40_wiegand.md R123, spec/41_softuart.md R146), the frame registers (spec/42_assembler.md R184), no
lost command and no lost wake-up (spec/44_scheduler.md R233, R234), the mode (R241, R242) and the lines
sent (spec/10_state.md R41). -/
def Obligations.EveryStepKeepsTheInvariant : Prop :=
  ∀ s t : State, Inv s → step s = .next t → Inv t

/-- The invariant holds after reset, for every parameters that meet their constraints, and so for
`State.reset`. -/
def Obligations.ResetMeetsTheInvariant : Prop :=
  (∀ p : Params, p.wf → Inv (State.resetWith p)) ∧ Inv State.reset
end

