-- ==== Sys2Proof/Laws/Decode.lean ====
section
/-!
SUPPORT. The fields of a stimulus word, and what each class of a byte decodes to.
-/
namespace Sys2Proof

/-- The bits of a word, field by field (spec/30_encoding.md R91). -/
theorem getLsbD_evtWord (op a : BitVec 8) (t : BitVec 16) (i : Nat) :
    (evtWord op a t).getLsbD i =
      if i < 16 then t.getLsbD i else if i < 24 then a.getLsbD (i - 16) else op.getLsbD (i - 24) := by
  have h := BitVec.getLsbD_append (x := op) (y := a ++ t) (i := i)
  have h' := BitVec.getLsbD_append (x := a) (y := t) (i := i)
  have hw : (evtWord op a t).getLsbD i = (op ++ (a ++ t)).getLsbD i := rfl
  rw [hw, h, h']
  by_cases h1 : i < 16
  · have : i < 8 + 16 := by omega
    simp [h1, this]
  · by_cases h2 : i < 24
    · have h3 : i - 16 < 8 := by omega
      simp [h1, h2]
    · have h3 : ¬ i < 8 + 16 := by omega
      simp [h1, h2]

@[simp] theorem evtOp_evtWord (op a : BitVec 8) (t : BitVec 16) : evtOp (evtWord op a t) = op := by
  apply BitVec.eq_of_getLsbD_eq
  intro i hi
  have h1 : ¬ 24 + i < 16 := by omega
  have h2 : ¬ 24 + i < 24 := by omega
  have h3 : 24 + i - 24 = i := by omega
  simp only [evtOp, BitVec.getLsbD_extractLsb', getLsbD_evtWord, hi, h1, h2, h3, decide_true,
    Bool.true_and, if_false]

@[simp] theorem evtA_evtWord (op a : BitVec 8) (t : BitVec 16) : evtA (evtWord op a t) = a := by
  apply BitVec.eq_of_getLsbD_eq
  intro i hi
  have h1 : ¬ 16 + i < 16 := by omega
  have h2 : 16 + i < 24 := by omega
  have h3 : 16 + i - 16 = i := by omega
  simp only [evtA, BitVec.getLsbD_extractLsb', getLsbD_evtWord, hi, h1, h2, h3, decide_true,
    Bool.true_and, if_false, if_true]

@[simp] theorem evtT_evtWord (op a : BitVec 8) (t : BitVec 16) : evtT (evtWord op a t) = t := by
  apply BitVec.eq_of_getLsbD_eq
  intro i hi
  simp only [evtT, BitVec.getLsbD_extractLsb', getLsbD_evtWord, Nat.zero_add, hi, decide_true,
    Bool.true_and, if_true]

@[simp] theorem evtLevel_evtWord (op a : BitVec 8) (t : BitVec 16) :
    evtLevel (evtWord op a t) = a.getLsbD 0 := by
  simp only [evtLevel, getLsbD_evtWord, Nat.lt_irrefl, if_false, Nat.reduceLT, if_true, Nat.sub_self]

/-- A word is the word of its three fields (spec/30_encoding.md R91). -/
theorem evtWord_fields (w : EvtWord) : evtWord (evtOp w) (evtA w) (evtT w) = w := by
  apply BitVec.eq_of_getLsbD_eq
  intro i hi
  rw [getLsbD_evtWord]
  simp only [evtOp, evtA, evtT, BitVec.getLsbD_extractLsb', Nat.zero_add]
  by_cases h1 : i < 16
  · simp [h1]
  · by_cases h2 : i < 24
    · have h3 : i - 16 < 8 := by omega
      have h4 : 16 + (i - 16) = i := by omega
      simp only [h1, h2, h3, h4, if_true, if_false, decide_true, Bool.true_and]
    · have h3 : i - 24 < 8 := by omega
      have h4 : 24 + (i - 24) = i := by omega
      simp only [h1, h2, h3, h4, if_false, decide_true, Bool.true_and]

/-- Bits 23:17 are the high seven bits of `a` (spec/30_encoding.md R94). -/
theorem levelOnly_eq (w : EvtWord) : levelOnly w = ((evtA w).extractLsb' 1 7 == 0#7) := by
  have : w.extractLsb' 17 7 = (evtA w).extractLsb' 1 7 := by
    apply BitVec.eq_of_getLsbD_eq
    intro i hi
    have h1 : 1 + i < 8 := by omega
    have h2 : 16 + (1 + i) = 17 + i := by omega
    simp [evtA, hi, h1, h2]
  simp [levelOnly, this]

/-- The level is bit 0 of `a`. -/
theorem evtLevel_eq (w : EvtWord) : evtLevel w = (evtA w).getLsbD 0 := by
  simp [evtLevel, evtA]

/-- A byte whose high seven bits are zero is a level field (spec/30_encoding.md R91). -/
theorem levelField_of_high_zero :
    ∀ a : BitVec 8, a.extractLsb' 1 7 = 0#7 → levelField (a.getLsbD 0) = a := by
  decide +kernel

@[simp] theorem levelField_bit (lv : Bool) : (levelField lv).getLsbD 0 = lv := by cases lv <;> rfl

@[simp] theorem levelField_high (lv : Bool) : (levelField lv).extractLsb' 1 7 = 0#7 := by
  cases lv <;> decide

/-- The answer of `checked`. -/
theorem checked_ok_iff (c : Bool) (i j : Instr) : checked c i = .ok j ↔ c = true ∧ i = j := by
  cases c <;> simp [checked]

/-- A reserved host byte (spec/30_encoding.md R96). -/
theorem decodeCmd8_of_not_mem {b : Byte} (h : b ∉ commandBytes) : decodeCmd8 b = .cmdRsvd b := by
  simp only [commandBytes, List.mem_cons, List.not_mem_nil, or_false, not_or] at h
  simp [decodeCmd8, hostCommand, h]

/-- A data byte of a card frame (spec/30_encoding.md R97). -/
theorem decodeFrm8_of_not_mem {b : Byte} (h : b ∉ controlBytes) : decodeFrm8 b = .frmData b := by
  simp only [controlBytes, List.mem_cons, List.not_mem_nil, or_false, not_or] at h
  simp [decodeFrm8, frameClass, h]

end Sys2Proof
end

