-- ==== Sys2Proof/Laws/Digest.lean ====
section
/-!
SUPPORT. What the three phases of the digest engine do: the context after an `update`, that updates join,
and that one update of a whole message is `DIGEST_FN` of it.
-/
namespace Sys2Proof.Machine

/-! ## Compressing blocks -/

/-- Compressing `a + b` blocks is compressing `a` and then `b`. -/
theorem compressBlocks_add (h : BlockHash) (b : Nat) : ∀ (a : Nat) (v : BitVec 160) (m : List Byte),
    compressBlocks h (a + b) v m =
      compressBlocks h b (compressBlocks h a v m) (m.drop (Config.digestBlock * a))
  | 0, v, m => by simp [compressBlocks]
  | a + 1, v, m => by
    rw [Nat.succ_add, compressBlocks, compressBlocks_add h b a, compressBlocks, List.drop_drop]
    congr 2
    simp only [Config.digestBlock]
    omega

/-- What follows the blocks does not matter. -/
theorem compressBlocks_append (h : BlockHash) (x : List Byte) : ∀ (n : Nat) (v : BitVec 160) (m : List Byte),
    Config.digestBlock * n ≤ m.length → compressBlocks h n v (m ++ x) = compressBlocks h n v m
  | 0, _, _, _ => rfl
  | n + 1, v, m, hm => by
    simp only [Config.digestBlock] at hm
    rw [compressBlocks, compressBlocks, List.take_append_of_le_length (by simp only [Config.digestBlock]; omega),
      List.drop_append_of_le_length (by simp only [Config.digestBlock]; omega),
      compressBlocks_append h x n _ _ (by simp only [Config.digestBlock, List.length_drop]; omega)]

/-! ## The context of a block hash -/

/-- The context of a block hash that has been given `m`: the whole blocks compressed, the rest in the block
buffer, the length counted. -/
def contextOf (h : BlockHash) (m : List Byte) : DigestContext :=
  ⟨compressAll h (hashInit h) m, m.drop (Config.digestBlock * (m.length / Config.digestBlock)), m.length⟩

/-- One byte more. -/
theorem absorbByte_contextOf (h : BlockHash) (m : List Byte) (b : Byte) :
    absorbByte h (contextOf h m) b = contextOf h (m ++ [b]) := by
  have hle : Config.digestBlock * (m.length / Config.digestBlock) ≤ m.length := Nat.mul_div_le _ _
  have hdrop : (m ++ [b]).drop (Config.digestBlock * (m.length / Config.digestBlock)) =
      m.drop (Config.digestBlock * (m.length / Config.digestBlock)) ++ [b] :=
    List.drop_append_of_le_length hle
  unfold absorbByte
  split
  · rename_i hfull
    simp only [contextOf, List.length_drop, Config.digestBlock] at hfull
    have hdiv : (m.length + 1) / Config.digestBlock = m.length / Config.digestBlock + 1 := by
      simp only [Config.digestBlock]; omega
    simp only [contextOf, compressAll, List.length_append, List.length_singleton, hdiv,
      DigestContext.mk.injEq, and_true]
    constructor
    · rw [compressBlocks_add, compressBlocks_append h [b] _ _ m hle, hdrop, compressBlocks, compressBlocks,
        List.take_of_length_le]
      simp only [Config.digestBlock, List.length_append, List.length_drop, List.length_singleton]
      omega
    · rw [List.drop_eq_nil_of_le]
      simp only [Config.digestBlock, List.length_append, List.length_singleton]
      omega
  · rename_i hpart
    simp only [contextOf, List.length_drop, Config.digestBlock] at hpart
    have hdiv : (m.length + 1) / Config.digestBlock = m.length / Config.digestBlock := by
      simp only [Config.digestBlock]; omega
    simp only [contextOf, compressAll, hdiv, List.length_append, List.length_singleton,
      compressBlocks_append h [b] _ _ m hle, hdrop]

/-- An `update` of a block hash that has been given `m`. -/
theorem digestUpdate_contextOf (h : BlockHash) : ∀ (bs m : List Byte),
    digestUpdate (.blockHash h) (contextOf h m) bs = contextOf h (m ++ bs)
  | [], m => by simp [digestUpdate]
  | b :: bs, m => by
    have ih := digestUpdate_contextOf h bs (m ++ [b])
    simp only [digestUpdate] at ih ⊢
    rw [List.foldl_cons, absorbByte_contextOf, ih, List.append_assoc, List.singleton_append]

/-- After `init` nothing has been given. -/
theorem digestInit_contextOf (h : BlockHash) : digestInit (.blockHash h) = contextOf h [] := rfl

/-! ## The contract -/

/-- Two updates are one update with both byte strings (spec/43_digest.md R213). -/
theorem digestUpdate_append (f : DigestFn) (c : DigestContext) (a b : List Byte) :
    digestUpdate f (digestUpdate f c a) b = digestUpdate f c (a ++ b) := by
  cases f with
  | blockHash h => simp [digestUpdate]
  | unnamed n => simp [digestUpdate, Nat.add_assoc]

/-- An `update` adds the bytes to the length counter (spec/43_digest.md R213). -/
theorem digestUpdate_length (f : DigestFn) : ∀ (bs : List Byte) (c : DigestContext),
    (digestUpdate f c bs).length = c.length + bs.length := by
  cases f with
  | unnamed n => exact fun _ _ => rfl
  | blockHash h =>
    intro bs
    induction bs with
    | nil => exact fun _ => rfl
    | cons b bs ih =>
      intro c
      have hb : (absorbByte h c b).length = c.length + 1 := by unfold absorbByte; split <;> rfl
      simp only [digestUpdate] at ih ⊢
      rw [List.foldl_cons, ih, hb, List.length_cons]
      omega

/-- One `update` of the whole message is the digest of the message (spec/43_digest.md R210, R213). -/
theorem dgHash_eq (f : DigestFn) (m : List Byte) : dgHash f m = digestFn f m := by
  cases f with
  | unnamed n => simp [dgHash, digestFinal, digestUpdate, digestInit, digestFn]
  | blockHash h =>
    have hle : Config.digestBlock * (m.length / Config.digestBlock) ≤ m.length := Nat.mul_div_le _ _
    have hsplit : (m ++ hashPadding h m.length).length / Config.digestBlock =
        m.length / Config.digestBlock +
          ((m.drop (Config.digestBlock * (m.length / Config.digestBlock)) ++
            hashPadding h m.length).length / Config.digestBlock) := by
      simp only [Config.digestBlock, List.length_append, List.length_drop]; omega
    rw [dgHash, digestInit_contextOf, digestUpdate_contextOf, List.nil_append]
    simp only [digestFinal, digestFn, blockDigest, contextOf]
    congr 1
    rw [compressAll, compressAll, compressAll, hsplit, compressBlocks_add,
      compressBlocks_append h _ _ _ m hle, List.drop_append_of_le_length hle]

end Sys2Proof.Machine
end

