-- ==== Sys2Proof/Laws/Memory.lean ====
section
/-!
SUPPORT. The laws of the memory spaces: what a read gives after a write, that every memory operation keeps
the canonical form, and that equal contents are equal data.
-/
namespace Sys2Proof.Machine

/-! ## Rising indices -/

/-- The canonical order, as facts: the head is above `lo`, the tail above the head. -/
@[simp] theorem Memory.rising_cons (lo j : Nat) (v : Byte) (m : Memory) :
    Memory.rising lo ((j, v) :: m) = true ↔ lo ≤ j ∧ Memory.rising (j + 1) m = true := by
  simp [Memory.rising]

@[simp] theorem Memory.rising_nil (lo : Nat) : Memory.rising lo [] = true := rfl

/-- A lower bound may be weakened. -/
theorem Memory.rising_mono {lo lo' : Nat} (h : lo' ≤ lo) :
    ∀ {m : Memory}, Memory.rising lo m = true → Memory.rising lo' m = true
  | [], _ => rfl
  | (j, v) :: m, hm => by
    rw [Memory.rising_cons] at hm ⊢
    exact ⟨Nat.le_trans h hm.1, hm.2⟩

/-- Below the lower bound every index is unlisted. -/
theorem Memory.read_below (sp : Space) {lo i : Nat} (hi : i < lo) :
    ∀ {m : Memory}, Memory.rising lo m = true → Memory.read sp m i = Memory.unlisted sp i
  | [], _ => rfl
  | (j, v) :: m, hm => by
    rw [Memory.rising_cons] at hm
    have hne : j ≠ i := by omega
    simp only [Memory.read, hne, if_false]
    exact Memory.read_below sp (by omega) hm.2

theorem Memory.rising_insert {lo i : Nat} {v : Byte} (hi : lo ≤ i) :
    ∀ {m : Memory}, Memory.rising lo m = true → Memory.rising lo (Memory.insert i v m) = true
  | [], _ => by simp [Memory.insert, hi]
  | (j, w) :: m, hm => by
    rw [Memory.rising_cons] at hm
    unfold Memory.insert
    split
    · next h => simp only [Memory.rising_cons]; exact ⟨hi, by omega, hm.2⟩
    · split
      · next h => subst h; simp only [Memory.rising_cons]; exact hm
      · simp only [Memory.rising_cons]
        exact ⟨hm.1, Memory.rising_insert (by omega) hm.2⟩

theorem Memory.rising_erase {lo i : Nat} :
    ∀ {m : Memory}, Memory.rising lo m = true → Memory.rising lo (Memory.erase i m) = true
  | [], _ => rfl
  | (j, w) :: m, hm => by
    rw [Memory.rising_cons] at hm
    unfold Memory.erase
    split
    · exact Memory.rising_mono (by omega) hm.2
    · simp only [Memory.rising_cons]; exact ⟨hm.1, Memory.rising_erase hm.2⟩

/-! ## Reads after writes -/

theorem Memory.read_insert (sp : Space) (m : Memory) (i : Nat) (v : Byte) (j : Nat) :
    Memory.read sp (Memory.insert i v m) j = if j = i then v else Memory.read sp m j := by
  induction m with
  | nil => simp only [Memory.insert, Memory.read]; by_cases h : i = j <;> simp [h, eq_comm]
  | cons c m ih =>
    obtain ⟨k, w⟩ := c
    unfold Memory.insert
    split
    · simp only [Memory.read]; by_cases h : i = j <;> simp [h, eq_comm]
    · split
      · next h => subst h; simp only [Memory.read]; by_cases h : i = j <;> simp [h, eq_comm]
      · next h1 h2 =>
        simp only [Memory.read, ih]
        by_cases h : k = j
        · have : j ≠ i := by omega
          simp [h, this]
        · simp [h]

theorem Memory.read_erase (sp : Space) {lo : Nat} (i j : Nat) :
    ∀ {m : Memory}, Memory.rising lo m = true →
      Memory.read sp (Memory.erase i m) j =
        if j = i then Memory.unlisted sp i else Memory.read sp m j
  | [], _ => by by_cases h : j = i <;> simp [Memory.erase, Memory.read, h]
  | (k, w) :: m, hm => by
    rw [Memory.rising_cons] at hm
    unfold Memory.erase
    split
    · next h =>
      subst h
      by_cases h : j = k
      · simp only [h, if_true]; exact Memory.read_below sp (by omega) hm.2
      · simp only [Memory.read, h, if_false, Ne.symm h]
    · next h =>
      simp only [Memory.read, Memory.read_erase sp i j hm.2]
      by_cases h1 : k = j
      · have : j ≠ i := by omega
        simp [h1, this]
      · simp [h1]

/-- What a canonical form says of the order. -/
theorem Memory.rising_of_wf {sp : Space} {m : Memory} (h : Memory.wf sp m = true) :
    Memory.rising 0 m = true := by
  simp only [Memory.wf, Bool.and_eq_true] at h
  exact h.1

/-- Reading after a write: the written index has the written value, every other index is as before. -/
theorem Memory.read_write {sp : Space} {m : Memory} (h : Memory.wf sp m = true) (i : Nat) (v : Byte)
    (j : Nat) :
    Memory.read sp (Memory.write sp m i v) j = if j = i then v else Memory.read sp m j := by
  unfold Memory.write
  split
  · next hv => rw [Memory.read_erase sp i j (Memory.rising_of_wf h), hv]
  · exact Memory.read_insert sp m i v j

/-! ## The canonical form -/

theorem Memory.wf_nil (sp : Space) : Memory.wf sp [] = true := rfl

theorem Memory.all_insert {i : Nat} {v : Byte} {q : Host.Cell → Bool} (hq : q (i, v) = true) :
    ∀ {m : Memory}, m.all q = true → (Memory.insert i v m).all q = true
  | [], _ => by simp [Memory.insert, hq]
  | (j, w) :: m, hm => by
    simp only [List.all_cons, Bool.and_eq_true] at hm
    unfold Memory.insert
    split
    · simp only [List.all_cons, Bool.and_eq_true]; exact ⟨hq, hm⟩
    · split
      · simp only [List.all_cons, Bool.and_eq_true]; exact ⟨hq, hm.2⟩
      · simp only [List.all_cons, Bool.and_eq_true]; exact ⟨hm.1, Memory.all_insert hq hm.2⟩

theorem Memory.all_erase {i : Nat} {q : Host.Cell → Bool} :
    ∀ {m : Memory}, m.all q = true → (Memory.erase i m).all q = true
  | [], _ => rfl
  | (j, w) :: m, hm => by
    simp only [List.all_cons, Bool.and_eq_true] at hm
    unfold Memory.erase
    split
    · exact hm.2
    · simp only [List.all_cons, Bool.and_eq_true]; exact ⟨hm.1, Memory.all_erase hm.2⟩

/-- A write at an index of the space keeps the canonical form. -/
theorem Memory.wf_write {sp : Space} {m : Memory} (h : Memory.wf sp m = true) {i : Nat} (hi : i < sp.size)
    (v : Byte) : Memory.wf sp (Memory.write sp m i v) = true := by
  simp only [Memory.wf, Bool.and_eq_true] at h ⊢
  unfold Memory.write
  split
  · exact ⟨Memory.rising_erase h.1, Memory.all_erase h.2⟩
  · next hv =>
    refine ⟨Memory.rising_insert (Nat.zero_le i) h.1, Memory.all_insert ?_ h.2⟩
    simp [hi, hv]

/-- Writing a byte string inside the space keeps the canonical form. -/
theorem Memory.wf_writeFrom {sp : Space} (bs : List Byte) :
    ∀ {m : Memory} {i : Nat}, Memory.wf sp m = true → i + bs.length ≤ sp.size →
      Memory.wf sp (Memory.writeFrom sp m i bs) = true := by
  induction bs with
  | nil => intro m i h _; exact h
  | cons b bs ih =>
    intro m i h hi
    simp only [List.length_cons] at hi
    exact ih (Memory.wf_write h (by omega) b) (by omega)

/-- Reading after a byte string is written inside the space. -/
theorem Memory.read_writeFrom {sp : Space} (bs : List Byte) :
    ∀ {m : Memory} {i : Nat}, Memory.wf sp m = true → i + bs.length ≤ sp.size → ∀ j,
      Memory.read sp (Memory.writeFrom sp m i bs) j =
        if i ≤ j ∧ j < i + bs.length then bs.getD (j - i) 0#8 else Memory.read sp m j := by
  induction bs with
  | nil =>
    intro m i _ _ j
    have : ¬ (i ≤ j ∧ j < i + ([] : List Byte).length) := by simp only [List.length_nil]; omega
    simp only [Memory.writeFrom, this, if_false]
  | cons b bs ih =>
    intro m i h hi j
    simp only [List.length_cons] at hi ⊢
    simp only [Memory.writeFrom]
    rw [ih (Memory.wf_write h (by omega) b) (by omega) j, Memory.read_write h]
    by_cases hj : j = i
    · subst hj
      simp
    · by_cases h1 : i + 1 ≤ j ∧ j < i + 1 + bs.length
      · have h2 : i ≤ j ∧ j < i + (bs.length + 1) := by omega
        have h3 : j - i = (j - (i + 1)) + 1 := by omega
        simp only [h1, h2, and_self, if_true, h3, List.getD_cons_succ]
      · have h2 : ¬ (i ≤ j ∧ j < i + (bs.length + 1)) := by omega
        simp only [h1, h2, hj, if_false]

/-- Every index outside the space is unlisted. -/
theorem Memory.read_outside {sp : Space} {m : Memory} (h : Memory.wf sp m = true) {i : Nat}
    (hi : sp.size ≤ i) : Memory.read sp m i = Memory.unlisted sp i := by
  simp only [Memory.wf, Bool.and_eq_true] at h
  have hall := h.2
  clear h
  induction m with
  | nil => rfl
  | cons c m ih =>
    obtain ⟨j, v⟩ := c
    simp only [List.all_cons, Bool.and_eq_true, decide_eq_true_eq] at hall
    have : j ≠ i := by omega
    simp only [Memory.read, this, if_false]
    exact ih hall.2

/-- Two memories in canonical form that read alike are equal. -/
theorem Memory.ext_of_read {sp : Space} :
    ∀ {lo : Nat} {m m' : Memory}, Memory.rising lo m = true → Memory.rising lo m' = true →
      (m.all fun c => c.2 != Memory.unlisted sp c.1) = true →
      (m'.all fun c => c.2 != Memory.unlisted sp c.1) = true →
      (∀ i, Memory.read sp m i = Memory.read sp m' i) → m = m'
  | lo, [], [], _, _, _, _, _ => rfl
  | lo, [], (j, v) :: m', _, h', _, ha', hr => by
    have := hr j
    simp only [List.all_cons, Bool.and_eq_true, bne_iff_ne] at ha'
    simp only [Memory.read, if_true] at this
    exact absurd this.symm ha'.1
  | lo, (j, v) :: m, [], h, _, ha, _, hr => by
    have := hr j
    simp only [List.all_cons, Bool.and_eq_true, bne_iff_ne] at ha
    simp only [Memory.read, if_true] at this
    exact absurd this ha.1
  | lo, (j, v) :: m, (j', v') :: m', h, h', ha, ha', hr => by
    rw [Memory.rising_cons] at h h'
    simp only [List.all_cons, Bool.and_eq_true, bne_iff_ne] at ha ha'
    have hj : j = j' := by
      by_contra hne
      rcases Nat.lt_or_gt_of_ne hne with hlt | hlt
      · have := hr j
        simp only [Memory.read, if_true, Ne.symm hne, if_false] at this
        rw [Memory.read_below sp (by omega) h'.2] at this
        exact ha.1 this
      · have := hr j'
        simp only [Memory.read, if_true, hne, if_false] at this
        rw [Memory.read_below sp (by omega) h.2] at this
        exact ha'.1 this.symm
    subst hj
    have hv : v = v' := by simpa [Memory.read] using hr j
    subst hv
    rw [Memory.ext_of_read h.2 h'.2 ha.2 ha'.2 ?_]
    intro i
    by_cases hi : j = i
    · subst hi
      rw [Memory.read_below sp (by omega) h.2, Memory.read_below sp (by omega) h'.2]
    · simpa [Memory.read, hi] using hr i

/-- Two memories in canonical form that read alike are equal. -/
theorem Memory.eq_of_read {sp : Space} {m m' : Memory} (h : Memory.wf sp m = true)
    (h' : Memory.wf sp m' = true) (hr : ∀ i, Memory.read sp m i = Memory.read sp m' i) : m = m' := by
  simp only [Memory.wf, Bool.and_eq_true, List.all_eq_true] at h h'
  refine Memory.ext_of_read h.1 h'.1 ?_ ?_ hr <;> rw [List.all_eq_true]
  · exact fun c hc => (h.2 c hc).2
  · exact fun c hc => (h'.2 c hc).2

/-- The byte string read has the length asked for. -/
@[simp] theorem Memory.length_bytes (sp : Space) (m : Memory) (i n : Nat) :
    (Memory.bytes sp m i n).length = n := by
  simp [Memory.bytes]

/-- After reset both memories are in canonical form. -/
theorem State.reset_wf : Memory.wf .buf State.reset.buf = true ∧ Memory.wf .frm State.reset.frm = true :=
  ⟨rfl, rfl⟩

end Sys2Proof.Machine
end

