-- ==== Sys2Proof/Laws/Operands.lean ====
section
/-!
SUPPORT. What each operand computation gives: bits recorded, elapsed time, bit cells, hex characters and
output lines.
-/
namespace Sys2Proof.Machine

/-! ## Bits of a byte -/

/-- A bit of a byte after one bit is set. -/
theorem getLsbD_setBit (b : Byte) {k : Nat} (hk : k < 8) (j : Nat) :
    (setBit b k).getLsbD j = (b.getLsbD j || decide (j = k)) := by
  simp only [setBit, BitVec.getLsbD_or, BitVec.getLsbD_shiftLeft, BitVec.getLsbD_one]
  congr 1
  by_cases hj : j = k
  · subst hj; simp [hk]
  · by_cases h8 : j < 8
    · by_cases hlt : j < k
      · simp [hj, hlt]
      · have : ¬ j - k = 0 := by omega
        simp [hj, this]
    · simp [h8, hj]

/-- A bit of a byte after a run of equal bits is recorded: the new positions gain the bit, the others
stay (spec/41_softuart.md R146). -/
theorem getLsbD_recordBits (v : Bool) (n : Nat) :
    ∀ (k : Nat) (b : Byte), k + n ≤ 8 → ∀ j,
      (recordBits v n k b).getLsbD j = (b.getLsbD j || (v && decide (k ≤ j ∧ j < k + n))) := by
  induction n with
  | zero =>
    intro k b _ j
    have : ¬ (k ≤ j ∧ j < k + 0) := by omega
    simp only [recordBits, this, decide_false, Bool.and_false, Bool.or_false]
  | succ n ih =>
    intro k b hk j
    simp only [recordBits]
    rw [ih (k + 1) _ (by omega) j]
    cases v
    · simp
    · simp only [if_true, Bool.true_and]
      rw [getLsbD_setBit b (by omega) j, Bool.or_assoc]
      congr 1
      by_cases h : j = k
      · have : k ≤ j ∧ j < k + (n + 1) := by omega
        simp [h]
      · have hiff : (k + 1 ≤ j ∧ j < k + 1 + n) ↔ (k ≤ j ∧ j < k + (n + 1)) := by omega
        simp only [h, decide_false, Bool.false_or, hiff]

/-- Recording zeros changes nothing (spec/41_softuart.md R146). -/
theorem recordBits_false (n : Nat) : ∀ (k : Nat) (b : Byte), recordBits false n k b = b := by
  induction n with
  | zero => intro k b; rfl
  | succ n ih => intro k b; simp only [recordBits, Bool.false_eq_true, if_false]; exact ih (k + 1) b

/-! ## Time -/

/-- The elapsed time is a timer count. -/
theorem elapsed_lt (p : Params) (t o : Nat) : elapsed p t o < 2 ^ p.timerW :=
  Nat.mod_lt _ (Nat.two_pow_pos _)

/-- At most eight data cells elapse. -/
theorem dataCells_le (c : Nat) : dataCells c ≤ 8 := Nat.min_le_right _ _

/-! ## Hex characters and lines -/

/-- Two valid hex characters with one value are one character (spec/30_encoding.md R101). -/
theorem hexval_injective : ∀ c d : Byte, (hexval c).isSome = true → hexval c = hexval d → c = d := by
  decide +kernel

/-- A byte is rendered as two characters. -/
@[simp] theorem length_hexOfByte (b : Byte) : (hexOfByte b).length = 2 := rfl

/-- The heartbeat line has six bytes (spec/30_encoding.md R103). -/
theorem length_aliveLine : aliveLine.length = 6 := rfl

/-- The message of the digest is the whole buffer (spec/43_digest.md R214). -/
@[simp] theorem length_bufMessage (s : State) : (bufMessage s).length = 256 := by
  simp [bufMessage, Memory.bytes]

end Sys2Proof.Machine
end

