-- ==== Sys2Proof/Laws/State.lean ====
section
/-!
SUPPORT. One lemma per field per named update of the state, each true by `rfl`, and the flag tests after
the flag updates.
-/
namespace Sys2Proof.Machine

variable (s : State)

/-! ### `handlerEntry` -/

@[simp] theorem handlerEntry_wgAcc : (handlerEntry s).wgAcc = s.wgAcc := rfl
@[simp] theorem handlerEntry_wgBit : (handlerEntry s).wgBit = s.wgBit := rfl
@[simp] theorem handlerEntry_cnt : (handlerEntry s).cnt = s.cnt := rfl
@[simp] theorem handlerEntry_secs : (handlerEntry s).secs = s.secs := rfl
@[simp] theorem handlerEntry_suState : (handlerEntry s).suState = s.suState := rfl
@[simp] theorem handlerEntry_suBits : (handlerEntry s).suBits = s.suBits := rfl
@[simp] theorem handlerEntry_suByte : (handlerEntry s).suByte = s.suByte := rfl
@[simp] theorem handlerEntry_suOrigin : (handlerEntry s).suOrigin = s.suOrigin := rfl
@[simp] theorem handlerEntry_suArmed : (handlerEntry s).suArmed = s.suArmed := rfl
@[simp] theorem handlerEntry_suMatch : (handlerEntry s).suMatch = s.suMatch := rfl
@[simp] theorem handlerEntry_frmLen : (handlerEntry s).frmLen = s.frmLen := rfl
@[simp] theorem handlerEntry_frmColl : (handlerEntry s).frmColl = s.frmColl := rfl
@[simp] theorem handlerEntry_evf : (handlerEntry s).evf = s.evf := rfl
@[simp] theorem handlerEntry_mode : (handlerEntry s).mode = s.mode := rfl
@[simp] theorem handlerEntry_fault : (handlerEntry s).fault = s.fault := rfl
@[simp] theorem handlerEntry_sleep : (handlerEntry s).sleep = false := rfl
@[simp] theorem handlerEntry_scPhase : (handlerEntry s).scPhase = s.scPhase := rfl
@[simp] theorem handlerEntry_buf : (handlerEntry s).buf = s.buf := rfl
@[simp] theorem handlerEntry_frm : (handlerEntry s).frm = s.frm := rfl
@[simp] theorem handlerEntry_fifo : (handlerEntry s).fifo = s.fifo := rfl
@[simp] theorem handlerEntry_rxq : (handlerEntry s).rxq = s.rxq := rfl
@[simp] theorem handlerEntry_tx : (handlerEntry s).tx = s.tx := rfl
@[simp] theorem handlerEntry_act : (handlerEntry s).act = s.act := rfl
@[simp] theorem handlerEntry_card : (handlerEntry s).card = s.card := rfl
@[simp] theorem handlerEntry_par : (handlerEntry s).par = s.par := rfl
@[simp] theorem handlerEntry_stim : (handlerEntry s).stim = s.stim := rfl
@[simp] theorem handlerEntry_cardTable : (handlerEntry s).cardTable = s.cardTable := rfl
@[simp] theorem handlerEntry_drawn : (handlerEntry s).drawn = s.drawn := rfl

/-! ### `clearSecs` -/

@[simp] theorem clearSecs_wgAcc : (clearSecs s).wgAcc = s.wgAcc := rfl
@[simp] theorem clearSecs_wgBit : (clearSecs s).wgBit = s.wgBit := rfl
@[simp] theorem clearSecs_cnt : (clearSecs s).cnt = s.cnt := rfl
@[simp] theorem clearSecs_secs : (clearSecs s).secs = 0 := rfl
@[simp] theorem clearSecs_suState : (clearSecs s).suState = s.suState := rfl
@[simp] theorem clearSecs_suBits : (clearSecs s).suBits = s.suBits := rfl
@[simp] theorem clearSecs_suByte : (clearSecs s).suByte = s.suByte := rfl
@[simp] theorem clearSecs_suOrigin : (clearSecs s).suOrigin = s.suOrigin := rfl
@[simp] theorem clearSecs_suArmed : (clearSecs s).suArmed = s.suArmed := rfl
@[simp] theorem clearSecs_suMatch : (clearSecs s).suMatch = s.suMatch := rfl
@[simp] theorem clearSecs_frmLen : (clearSecs s).frmLen = s.frmLen := rfl
@[simp] theorem clearSecs_frmColl : (clearSecs s).frmColl = s.frmColl := rfl
@[simp] theorem clearSecs_evf : (clearSecs s).evf = s.evf := rfl
@[simp] theorem clearSecs_mode : (clearSecs s).mode = s.mode := rfl
@[simp] theorem clearSecs_fault : (clearSecs s).fault = s.fault := rfl
@[simp] theorem clearSecs_sleep : (clearSecs s).sleep = s.sleep := rfl
@[simp] theorem clearSecs_scPhase : (clearSecs s).scPhase = s.scPhase := rfl
@[simp] theorem clearSecs_buf : (clearSecs s).buf = s.buf := rfl
@[simp] theorem clearSecs_frm : (clearSecs s).frm = s.frm := rfl
@[simp] theorem clearSecs_fifo : (clearSecs s).fifo = s.fifo := rfl
@[simp] theorem clearSecs_rxq : (clearSecs s).rxq = s.rxq := rfl
@[simp] theorem clearSecs_tx : (clearSecs s).tx = s.tx := rfl
@[simp] theorem clearSecs_act : (clearSecs s).act = s.act := rfl
@[simp] theorem clearSecs_card : (clearSecs s).card = s.card := rfl
@[simp] theorem clearSecs_par : (clearSecs s).par = s.par := rfl
@[simp] theorem clearSecs_stim : (clearSecs s).stim = s.stim := rfl
@[simp] theorem clearSecs_cardTable : (clearSecs s).cardTable = s.cardTable := rfl
@[simp] theorem clearSecs_drawn : (clearSecs s).drawn = s.drawn := rfl

/-! ### `raiseFlag` -/

@[simp] theorem raiseFlag_wgAcc (f : EventFlag) : (raiseFlag f s).wgAcc = s.wgAcc := rfl
@[simp] theorem raiseFlag_wgBit (f : EventFlag) : (raiseFlag f s).wgBit = s.wgBit := rfl
@[simp] theorem raiseFlag_cnt (f : EventFlag) : (raiseFlag f s).cnt = s.cnt := rfl
@[simp] theorem raiseFlag_secs (f : EventFlag) : (raiseFlag f s).secs = s.secs := rfl
@[simp] theorem raiseFlag_suState (f : EventFlag) : (raiseFlag f s).suState = s.suState := rfl
@[simp] theorem raiseFlag_suBits (f : EventFlag) : (raiseFlag f s).suBits = s.suBits := rfl
@[simp] theorem raiseFlag_suByte (f : EventFlag) : (raiseFlag f s).suByte = s.suByte := rfl
@[simp] theorem raiseFlag_suOrigin (f : EventFlag) : (raiseFlag f s).suOrigin = s.suOrigin := rfl
@[simp] theorem raiseFlag_suArmed (f : EventFlag) : (raiseFlag f s).suArmed = s.suArmed := rfl
@[simp] theorem raiseFlag_suMatch (f : EventFlag) : (raiseFlag f s).suMatch = s.suMatch := rfl
@[simp] theorem raiseFlag_frmLen (f : EventFlag) : (raiseFlag f s).frmLen = s.frmLen := rfl
@[simp] theorem raiseFlag_frmColl (f : EventFlag) : (raiseFlag f s).frmColl = s.frmColl := rfl
@[simp] theorem raiseFlag_evf (f : EventFlag) : (raiseFlag f s).evf = s.evf ||| (1#3 <<< flagBit f) := rfl
@[simp] theorem raiseFlag_mode (f : EventFlag) : (raiseFlag f s).mode = s.mode := rfl
@[simp] theorem raiseFlag_fault (f : EventFlag) : (raiseFlag f s).fault = s.fault := rfl
@[simp] theorem raiseFlag_sleep (f : EventFlag) : (raiseFlag f s).sleep = s.sleep := rfl
@[simp] theorem raiseFlag_scPhase (f : EventFlag) : (raiseFlag f s).scPhase = s.scPhase := rfl
@[simp] theorem raiseFlag_buf (f : EventFlag) : (raiseFlag f s).buf = s.buf := rfl
@[simp] theorem raiseFlag_frm (f : EventFlag) : (raiseFlag f s).frm = s.frm := rfl
@[simp] theorem raiseFlag_fifo (f : EventFlag) : (raiseFlag f s).fifo = s.fifo := rfl
@[simp] theorem raiseFlag_rxq (f : EventFlag) : (raiseFlag f s).rxq = s.rxq := rfl
@[simp] theorem raiseFlag_tx (f : EventFlag) : (raiseFlag f s).tx = s.tx := rfl
@[simp] theorem raiseFlag_act (f : EventFlag) : (raiseFlag f s).act = s.act := rfl
@[simp] theorem raiseFlag_card (f : EventFlag) : (raiseFlag f s).card = s.card := rfl
@[simp] theorem raiseFlag_par (f : EventFlag) : (raiseFlag f s).par = s.par := rfl
@[simp] theorem raiseFlag_stim (f : EventFlag) : (raiseFlag f s).stim = s.stim := rfl
@[simp] theorem raiseFlag_cardTable (f : EventFlag) : (raiseFlag f s).cardTable = s.cardTable := rfl
@[simp] theorem raiseFlag_drawn (f : EventFlag) : (raiseFlag f s).drawn = s.drawn := rfl

/-! ### `clearFlag` -/

@[simp] theorem clearFlag_wgAcc (f : EventFlag) : (clearFlag f s).wgAcc = s.wgAcc := rfl
@[simp] theorem clearFlag_wgBit (f : EventFlag) : (clearFlag f s).wgBit = s.wgBit := rfl
@[simp] theorem clearFlag_cnt (f : EventFlag) : (clearFlag f s).cnt = s.cnt := rfl
@[simp] theorem clearFlag_secs (f : EventFlag) : (clearFlag f s).secs = s.secs := rfl
@[simp] theorem clearFlag_suState (f : EventFlag) : (clearFlag f s).suState = s.suState := rfl
@[simp] theorem clearFlag_suBits (f : EventFlag) : (clearFlag f s).suBits = s.suBits := rfl
@[simp] theorem clearFlag_suByte (f : EventFlag) : (clearFlag f s).suByte = s.suByte := rfl
@[simp] theorem clearFlag_suOrigin (f : EventFlag) : (clearFlag f s).suOrigin = s.suOrigin := rfl
@[simp] theorem clearFlag_suArmed (f : EventFlag) : (clearFlag f s).suArmed = s.suArmed := rfl
@[simp] theorem clearFlag_suMatch (f : EventFlag) : (clearFlag f s).suMatch = s.suMatch := rfl
@[simp] theorem clearFlag_frmLen (f : EventFlag) : (clearFlag f s).frmLen = s.frmLen := rfl
@[simp] theorem clearFlag_frmColl (f : EventFlag) : (clearFlag f s).frmColl = s.frmColl := rfl
@[simp] theorem clearFlag_evf (f : EventFlag) : (clearFlag f s).evf = s.evf &&& ~~~(1#3 <<< flagBit f) := rfl
@[simp] theorem clearFlag_mode (f : EventFlag) : (clearFlag f s).mode = s.mode := rfl
@[simp] theorem clearFlag_fault (f : EventFlag) : (clearFlag f s).fault = s.fault := rfl
@[simp] theorem clearFlag_sleep (f : EventFlag) : (clearFlag f s).sleep = s.sleep := rfl
@[simp] theorem clearFlag_scPhase (f : EventFlag) : (clearFlag f s).scPhase = s.scPhase := rfl
@[simp] theorem clearFlag_buf (f : EventFlag) : (clearFlag f s).buf = s.buf := rfl
@[simp] theorem clearFlag_frm (f : EventFlag) : (clearFlag f s).frm = s.frm := rfl
@[simp] theorem clearFlag_fifo (f : EventFlag) : (clearFlag f s).fifo = s.fifo := rfl
@[simp] theorem clearFlag_rxq (f : EventFlag) : (clearFlag f s).rxq = s.rxq := rfl
@[simp] theorem clearFlag_tx (f : EventFlag) : (clearFlag f s).tx = s.tx := rfl
@[simp] theorem clearFlag_act (f : EventFlag) : (clearFlag f s).act = s.act := rfl
@[simp] theorem clearFlag_card (f : EventFlag) : (clearFlag f s).card = s.card := rfl
@[simp] theorem clearFlag_par (f : EventFlag) : (clearFlag f s).par = s.par := rfl
@[simp] theorem clearFlag_stim (f : EventFlag) : (clearFlag f s).stim = s.stim := rfl
@[simp] theorem clearFlag_cardTable (f : EventFlag) : (clearFlag f s).cardTable = s.cardTable := rfl
@[simp] theorem clearFlag_drawn (f : EventFlag) : (clearFlag f s).drawn = s.drawn := rfl

/-! ### `raiseOverrun` -/

@[simp] theorem raiseOverrun_wgAcc : (raiseOverrun s).wgAcc = s.wgAcc := rfl
@[simp] theorem raiseOverrun_wgBit : (raiseOverrun s).wgBit = s.wgBit := rfl
@[simp] theorem raiseOverrun_cnt : (raiseOverrun s).cnt = s.cnt := rfl
@[simp] theorem raiseOverrun_secs : (raiseOverrun s).secs = s.secs := rfl
@[simp] theorem raiseOverrun_suState : (raiseOverrun s).suState = s.suState := rfl
@[simp] theorem raiseOverrun_suBits : (raiseOverrun s).suBits = s.suBits := rfl
@[simp] theorem raiseOverrun_suByte : (raiseOverrun s).suByte = s.suByte := rfl
@[simp] theorem raiseOverrun_suOrigin : (raiseOverrun s).suOrigin = s.suOrigin := rfl
@[simp] theorem raiseOverrun_suArmed : (raiseOverrun s).suArmed = s.suArmed := rfl
@[simp] theorem raiseOverrun_suMatch : (raiseOverrun s).suMatch = s.suMatch := rfl
@[simp] theorem raiseOverrun_frmLen : (raiseOverrun s).frmLen = s.frmLen := rfl
@[simp] theorem raiseOverrun_frmColl : (raiseOverrun s).frmColl = s.frmColl := rfl
@[simp] theorem raiseOverrun_evf : (raiseOverrun s).evf = s.evf := rfl
@[simp] theorem raiseOverrun_mode : (raiseOverrun s).mode = s.mode := rfl
@[simp] theorem raiseOverrun_fault : (raiseOverrun s).fault = s.fault ||| 1#1 := rfl
@[simp] theorem raiseOverrun_sleep : (raiseOverrun s).sleep = s.sleep := rfl
@[simp] theorem raiseOverrun_scPhase : (raiseOverrun s).scPhase = s.scPhase := rfl
@[simp] theorem raiseOverrun_buf : (raiseOverrun s).buf = s.buf := rfl
@[simp] theorem raiseOverrun_frm : (raiseOverrun s).frm = s.frm := rfl
@[simp] theorem raiseOverrun_fifo : (raiseOverrun s).fifo = s.fifo := rfl
@[simp] theorem raiseOverrun_rxq : (raiseOverrun s).rxq = s.rxq := rfl
@[simp] theorem raiseOverrun_tx : (raiseOverrun s).tx = s.tx := rfl
@[simp] theorem raiseOverrun_act : (raiseOverrun s).act = s.act := rfl
@[simp] theorem raiseOverrun_card : (raiseOverrun s).card = s.card := rfl
@[simp] theorem raiseOverrun_par : (raiseOverrun s).par = s.par := rfl
@[simp] theorem raiseOverrun_stim : (raiseOverrun s).stim = s.stim := rfl
@[simp] theorem raiseOverrun_cardTable : (raiseOverrun s).cardTable = s.cardTable := rfl
@[simp] theorem raiseOverrun_drawn : (raiseOverrun s).drawn = s.drawn := rfl

/-! ### `send` -/

@[simp] theorem send_wgAcc (l : List Byte) : (send l s).wgAcc = s.wgAcc := rfl
@[simp] theorem send_wgBit (l : List Byte) : (send l s).wgBit = s.wgBit := rfl
@[simp] theorem send_cnt (l : List Byte) : (send l s).cnt = s.cnt := rfl
@[simp] theorem send_secs (l : List Byte) : (send l s).secs = s.secs := rfl
@[simp] theorem send_suState (l : List Byte) : (send l s).suState = s.suState := rfl
@[simp] theorem send_suBits (l : List Byte) : (send l s).suBits = s.suBits := rfl
@[simp] theorem send_suByte (l : List Byte) : (send l s).suByte = s.suByte := rfl
@[simp] theorem send_suOrigin (l : List Byte) : (send l s).suOrigin = s.suOrigin := rfl
@[simp] theorem send_suArmed (l : List Byte) : (send l s).suArmed = s.suArmed := rfl
@[simp] theorem send_suMatch (l : List Byte) : (send l s).suMatch = s.suMatch := rfl
@[simp] theorem send_frmLen (l : List Byte) : (send l s).frmLen = s.frmLen := rfl
@[simp] theorem send_frmColl (l : List Byte) : (send l s).frmColl = s.frmColl := rfl
@[simp] theorem send_evf (l : List Byte) : (send l s).evf = s.evf := rfl
@[simp] theorem send_mode (l : List Byte) : (send l s).mode = s.mode := rfl
@[simp] theorem send_fault (l : List Byte) : (send l s).fault = s.fault := rfl
@[simp] theorem send_sleep (l : List Byte) : (send l s).sleep = s.sleep := rfl
@[simp] theorem send_scPhase (l : List Byte) : (send l s).scPhase = s.scPhase := rfl
@[simp] theorem send_buf (l : List Byte) : (send l s).buf = s.buf := rfl
@[simp] theorem send_frm (l : List Byte) : (send l s).frm = s.frm := rfl
@[simp] theorem send_fifo (l : List Byte) : (send l s).fifo = s.fifo := rfl
@[simp] theorem send_rxq (l : List Byte) : (send l s).rxq = s.rxq := rfl
@[simp] theorem send_tx (l : List Byte) : (send l s).tx = s.tx ++ l := rfl
@[simp] theorem send_act (l : List Byte) : (send l s).act = s.act := rfl
@[simp] theorem send_card (l : List Byte) : (send l s).card = s.card := rfl
@[simp] theorem send_par (l : List Byte) : (send l s).par = s.par := rfl
@[simp] theorem send_stim (l : List Byte) : (send l s).stim = s.stim := rfl
@[simp] theorem send_cardTable (l : List Byte) : (send l s).cardTable = s.cardTable := rfl
@[simp] theorem send_drawn (l : List Byte) : (send l s).drawn = s.drawn := rfl

/-! ### `perform` -/

@[simp] theorem perform_wgAcc (k : Action) : (perform k s).wgAcc = s.wgAcc := rfl
@[simp] theorem perform_wgBit (k : Action) : (perform k s).wgBit = s.wgBit := rfl
@[simp] theorem perform_cnt (k : Action) : (perform k s).cnt = s.cnt := rfl
@[simp] theorem perform_secs (k : Action) : (perform k s).secs = s.secs := rfl
@[simp] theorem perform_suState (k : Action) : (perform k s).suState = s.suState := rfl
@[simp] theorem perform_suBits (k : Action) : (perform k s).suBits = s.suBits := rfl
@[simp] theorem perform_suByte (k : Action) : (perform k s).suByte = s.suByte := rfl
@[simp] theorem perform_suOrigin (k : Action) : (perform k s).suOrigin = s.suOrigin := rfl
@[simp] theorem perform_suArmed (k : Action) : (perform k s).suArmed = s.suArmed := rfl
@[simp] theorem perform_suMatch (k : Action) : (perform k s).suMatch = s.suMatch := rfl
@[simp] theorem perform_frmLen (k : Action) : (perform k s).frmLen = s.frmLen := rfl
@[simp] theorem perform_frmColl (k : Action) : (perform k s).frmColl = s.frmColl := rfl
@[simp] theorem perform_evf (k : Action) : (perform k s).evf = s.evf := rfl
@[simp] theorem perform_mode (k : Action) : (perform k s).mode = s.mode := rfl
@[simp] theorem perform_fault (k : Action) : (perform k s).fault = s.fault := rfl
@[simp] theorem perform_sleep (k : Action) : (perform k s).sleep = s.sleep := rfl
@[simp] theorem perform_scPhase (k : Action) : (perform k s).scPhase = s.scPhase := rfl
@[simp] theorem perform_buf (k : Action) : (perform k s).buf = s.buf := rfl
@[simp] theorem perform_frm (k : Action) : (perform k s).frm = s.frm := rfl
@[simp] theorem perform_fifo (k : Action) : (perform k s).fifo = s.fifo := rfl
@[simp] theorem perform_rxq (k : Action) : (perform k s).rxq = s.rxq := rfl
@[simp] theorem perform_tx (k : Action) : (perform k s).tx = s.tx := rfl
@[simp] theorem perform_act (k : Action) : (perform k s).act = s.act ++ [k] := rfl
@[simp] theorem perform_card (k : Action) : (perform k s).card = s.card := rfl
@[simp] theorem perform_par (k : Action) : (perform k s).par = s.par := rfl
@[simp] theorem perform_stim (k : Action) : (perform k s).stim = s.stim := rfl
@[simp] theorem perform_cardTable (k : Action) : (perform k s).cardTable = s.cardTable := rfl
@[simp] theorem perform_drawn (k : Action) : (perform k s).drawn = s.drawn := rfl

/-! ### `csaReset` -/

@[simp] theorem csaReset_wgAcc : (csaReset s).wgAcc = s.wgAcc := rfl
@[simp] theorem csaReset_wgBit : (csaReset s).wgBit = s.wgBit := rfl
@[simp] theorem csaReset_cnt : (csaReset s).cnt = 0 := rfl
@[simp] theorem csaReset_secs : (csaReset s).secs = s.secs := rfl
@[simp] theorem csaReset_suState : (csaReset s).suState = s.suState := rfl
@[simp] theorem csaReset_suBits : (csaReset s).suBits = s.suBits := rfl
@[simp] theorem csaReset_suByte : (csaReset s).suByte = s.suByte := rfl
@[simp] theorem csaReset_suOrigin : (csaReset s).suOrigin = s.suOrigin := rfl
@[simp] theorem csaReset_suArmed : (csaReset s).suArmed = s.suArmed := rfl
@[simp] theorem csaReset_suMatch : (csaReset s).suMatch = s.suMatch := rfl
@[simp] theorem csaReset_frmLen : (csaReset s).frmLen = s.frmLen := rfl
@[simp] theorem csaReset_frmColl : (csaReset s).frmColl = s.frmColl := rfl
@[simp] theorem csaReset_evf : (csaReset s).evf = s.evf := rfl
@[simp] theorem csaReset_mode : (csaReset s).mode = s.mode := rfl
@[simp] theorem csaReset_fault : (csaReset s).fault = s.fault := rfl
@[simp] theorem csaReset_sleep : (csaReset s).sleep = s.sleep := rfl
@[simp] theorem csaReset_scPhase : (csaReset s).scPhase = s.scPhase := rfl
@[simp] theorem csaReset_buf : (csaReset s).buf = [] := rfl
@[simp] theorem csaReset_frm : (csaReset s).frm = s.frm := rfl
@[simp] theorem csaReset_fifo : (csaReset s).fifo = s.fifo := rfl
@[simp] theorem csaReset_rxq : (csaReset s).rxq = s.rxq := rfl
@[simp] theorem csaReset_tx : (csaReset s).tx = s.tx := rfl
@[simp] theorem csaReset_act : (csaReset s).act = s.act := rfl
@[simp] theorem csaReset_card : (csaReset s).card = s.card := rfl
@[simp] theorem csaReset_par : (csaReset s).par = s.par := rfl
@[simp] theorem csaReset_stim : (csaReset s).stim = s.stim := rfl
@[simp] theorem csaReset_cardTable : (csaReset s).cardTable = s.cardTable := rfl
@[simp] theorem csaReset_drawn : (csaReset s).drawn = s.drawn := rfl

/-! ### `frameStart` -/

@[simp] theorem frameStart_wgAcc : (frameStart s).wgAcc = s.wgAcc := rfl
@[simp] theorem frameStart_wgBit : (frameStart s).wgBit = s.wgBit := rfl
@[simp] theorem frameStart_cnt : (frameStart s).cnt = s.cnt := rfl
@[simp] theorem frameStart_secs : (frameStart s).secs = s.secs := rfl
@[simp] theorem frameStart_suState : (frameStart s).suState = s.suState := rfl
@[simp] theorem frameStart_suBits : (frameStart s).suBits = s.suBits := rfl
@[simp] theorem frameStart_suByte : (frameStart s).suByte = s.suByte := rfl
@[simp] theorem frameStart_suOrigin : (frameStart s).suOrigin = s.suOrigin := rfl
@[simp] theorem frameStart_suArmed : (frameStart s).suArmed = s.suArmed := rfl
@[simp] theorem frameStart_suMatch : (frameStart s).suMatch = s.suMatch := rfl
@[simp] theorem frameStart_frmLen : (frameStart s).frmLen = 0 := rfl
@[simp] theorem frameStart_frmColl : (frameStart s).frmColl = true := rfl
@[simp] theorem frameStart_evf : (frameStart s).evf = s.evf := rfl
@[simp] theorem frameStart_mode : (frameStart s).mode = s.mode := rfl
@[simp] theorem frameStart_fault : (frameStart s).fault = s.fault := rfl
@[simp] theorem frameStart_sleep : (frameStart s).sleep = s.sleep := rfl
@[simp] theorem frameStart_scPhase : (frameStart s).scPhase = s.scPhase := rfl
@[simp] theorem frameStart_buf : (frameStart s).buf = s.buf := rfl
@[simp] theorem frameStart_frm : (frameStart s).frm = s.frm := rfl
@[simp] theorem frameStart_fifo : (frameStart s).fifo = s.fifo := rfl
@[simp] theorem frameStart_rxq : (frameStart s).rxq = s.rxq := rfl
@[simp] theorem frameStart_tx : (frameStart s).tx = s.tx := rfl
@[simp] theorem frameStart_act : (frameStart s).act = s.act := rfl
@[simp] theorem frameStart_card : (frameStart s).card = s.card := rfl
@[simp] theorem frameStart_par : (frameStart s).par = s.par := rfl
@[simp] theorem frameStart_stim : (frameStart s).stim = s.stim := rfl
@[simp] theorem frameStart_cardTable : (frameStart s).cardTable = s.cardTable := rfl
@[simp] theorem frameStart_drawn : (frameStart s).drawn = s.drawn := rfl

/-! ### `frameClose` -/

@[simp] theorem frameClose_wgAcc : (frameClose s).wgAcc = s.wgAcc := rfl
@[simp] theorem frameClose_wgBit : (frameClose s).wgBit = s.wgBit := rfl
@[simp] theorem frameClose_cnt : (frameClose s).cnt = s.cnt := rfl
@[simp] theorem frameClose_secs : (frameClose s).secs = s.secs := rfl
@[simp] theorem frameClose_suState : (frameClose s).suState = s.suState := rfl
@[simp] theorem frameClose_suBits : (frameClose s).suBits = s.suBits := rfl
@[simp] theorem frameClose_suByte : (frameClose s).suByte = s.suByte := rfl
@[simp] theorem frameClose_suOrigin : (frameClose s).suOrigin = s.suOrigin := rfl
@[simp] theorem frameClose_suArmed : (frameClose s).suArmed = s.suArmed := rfl
@[simp] theorem frameClose_suMatch : (frameClose s).suMatch = s.suMatch := rfl
@[simp] theorem frameClose_frmLen : (frameClose s).frmLen = 0 := rfl
@[simp] theorem frameClose_frmColl : (frameClose s).frmColl = false := rfl
@[simp] theorem frameClose_evf : (frameClose s).evf = s.evf := rfl
@[simp] theorem frameClose_mode : (frameClose s).mode = s.mode := rfl
@[simp] theorem frameClose_fault : (frameClose s).fault = s.fault := rfl
@[simp] theorem frameClose_sleep : (frameClose s).sleep = s.sleep := rfl
@[simp] theorem frameClose_scPhase : (frameClose s).scPhase = s.scPhase := rfl
@[simp] theorem frameClose_buf : (frameClose s).buf = s.buf := rfl
@[simp] theorem frameClose_frm : (frameClose s).frm = s.frm := rfl
@[simp] theorem frameClose_fifo : (frameClose s).fifo = s.fifo := rfl
@[simp] theorem frameClose_rxq : (frameClose s).rxq = s.rxq := rfl
@[simp] theorem frameClose_tx : (frameClose s).tx = s.tx := rfl
@[simp] theorem frameClose_act : (frameClose s).act = s.act := rfl
@[simp] theorem frameClose_card : (frameClose s).card = s.card := rfl
@[simp] theorem frameClose_par : (frameClose s).par = s.par := rfl
@[simp] theorem frameClose_stim : (frameClose s).stim = s.stim := rfl
@[simp] theorem frameClose_cardTable : (frameClose s).cardTable = s.cardTable := rfl
@[simp] theorem frameClose_drawn : (frameClose s).drawn = s.drawn := rfl

/-! ### `branchIdle` -/

@[simp] theorem branchIdle_wgAcc : (branchIdle s).wgAcc = s.wgAcc := rfl
@[simp] theorem branchIdle_wgBit : (branchIdle s).wgBit = s.wgBit := rfl
@[simp] theorem branchIdle_cnt : (branchIdle s).cnt = s.cnt := rfl
@[simp] theorem branchIdle_secs : (branchIdle s).secs = s.secs := rfl
@[simp] theorem branchIdle_suState : (branchIdle s).suState = s.suState := rfl
@[simp] theorem branchIdle_suBits : (branchIdle s).suBits = s.suBits := rfl
@[simp] theorem branchIdle_suByte : (branchIdle s).suByte = s.suByte := rfl
@[simp] theorem branchIdle_suOrigin : (branchIdle s).suOrigin = s.suOrigin := rfl
@[simp] theorem branchIdle_suArmed : (branchIdle s).suArmed = s.suArmed := rfl
@[simp] theorem branchIdle_suMatch : (branchIdle s).suMatch = s.suMatch := rfl
@[simp] theorem branchIdle_frmLen : (branchIdle s).frmLen = s.frmLen := rfl
@[simp] theorem branchIdle_frmColl : (branchIdle s).frmColl = s.frmColl := rfl
@[simp] theorem branchIdle_evf : (branchIdle s).evf = s.evf := rfl
@[simp] theorem branchIdle_mode : (branchIdle s).mode = s.mode := rfl
@[simp] theorem branchIdle_fault : (branchIdle s).fault = s.fault := rfl
@[simp] theorem branchIdle_sleep : (branchIdle s).sleep = true := rfl
@[simp] theorem branchIdle_scPhase : (branchIdle s).scPhase = s.scPhase := rfl
@[simp] theorem branchIdle_buf : (branchIdle s).buf = s.buf := rfl
@[simp] theorem branchIdle_frm : (branchIdle s).frm = s.frm := rfl
@[simp] theorem branchIdle_fifo : (branchIdle s).fifo = s.fifo := rfl
@[simp] theorem branchIdle_rxq : (branchIdle s).rxq = s.rxq := rfl
@[simp] theorem branchIdle_tx : (branchIdle s).tx = s.tx := rfl
@[simp] theorem branchIdle_act : (branchIdle s).act = s.act := rfl
@[simp] theorem branchIdle_card : (branchIdle s).card = s.card := rfl
@[simp] theorem branchIdle_par : (branchIdle s).par = s.par := rfl
@[simp] theorem branchIdle_stim : (branchIdle s).stim = s.stim := rfl
@[simp] theorem branchIdle_cardTable : (branchIdle s).cardTable = s.cardTable := rfl
@[simp] theorem branchIdle_drawn : (branchIdle s).drawn = s.drawn := rfl

/-! ### `countTick` -/

@[simp] theorem countTick_wgAcc : (countTick s).wgAcc = s.wgAcc := rfl
@[simp] theorem countTick_wgBit : (countTick s).wgBit = s.wgBit := rfl
@[simp] theorem countTick_cnt : (countTick s).cnt = s.cnt := rfl
@[simp] theorem countTick_secs : (countTick s).secs = (s.secs + 1) % 2 ^ s.par.secsW := rfl
@[simp] theorem countTick_suState : (countTick s).suState = s.suState := rfl
@[simp] theorem countTick_suBits : (countTick s).suBits = s.suBits := rfl
@[simp] theorem countTick_suByte : (countTick s).suByte = s.suByte := rfl
@[simp] theorem countTick_suOrigin : (countTick s).suOrigin = s.suOrigin := rfl
@[simp] theorem countTick_suArmed : (countTick s).suArmed = s.suArmed := rfl
@[simp] theorem countTick_suMatch : (countTick s).suMatch = s.suMatch := rfl
@[simp] theorem countTick_frmLen : (countTick s).frmLen = s.frmLen := rfl
@[simp] theorem countTick_frmColl : (countTick s).frmColl = s.frmColl := rfl
@[simp] theorem countTick_evf : (countTick s).evf = s.evf := rfl
@[simp] theorem countTick_mode : (countTick s).mode = s.mode := rfl
@[simp] theorem countTick_fault : (countTick s).fault = s.fault := rfl
@[simp] theorem countTick_sleep : (countTick s).sleep = s.sleep := rfl
@[simp] theorem countTick_scPhase : (countTick s).scPhase = s.scPhase := rfl
@[simp] theorem countTick_buf : (countTick s).buf = s.buf := rfl
@[simp] theorem countTick_frm : (countTick s).frm = s.frm := rfl
@[simp] theorem countTick_fifo : (countTick s).fifo = s.fifo := rfl
@[simp] theorem countTick_rxq : (countTick s).rxq = s.rxq := rfl
@[simp] theorem countTick_tx : (countTick s).tx = s.tx := rfl
@[simp] theorem countTick_act : (countTick s).act = s.act := rfl
@[simp] theorem countTick_card : (countTick s).card = s.card := rfl
@[simp] theorem countTick_par : (countTick s).par = s.par := rfl
@[simp] theorem countTick_stim : (countTick s).stim = s.stim := rfl
@[simp] theorem countTick_cardTable : (countTick s).cardTable = s.cardTable := rfl
@[simp] theorem countTick_drawn : (countTick s).drawn = s.drawn := rfl

/-! ### `pushRx` -/

@[simp] theorem pushRx_wgAcc (b : Byte) : (pushRx b s).wgAcc = s.wgAcc := rfl
@[simp] theorem pushRx_wgBit (b : Byte) : (pushRx b s).wgBit = s.wgBit := rfl
@[simp] theorem pushRx_cnt (b : Byte) : (pushRx b s).cnt = s.cnt := rfl
@[simp] theorem pushRx_secs (b : Byte) : (pushRx b s).secs = s.secs := rfl
@[simp] theorem pushRx_suState (b : Byte) : (pushRx b s).suState = s.suState := rfl
@[simp] theorem pushRx_suBits (b : Byte) : (pushRx b s).suBits = s.suBits := rfl
@[simp] theorem pushRx_suByte (b : Byte) : (pushRx b s).suByte = s.suByte := rfl
@[simp] theorem pushRx_suOrigin (b : Byte) : (pushRx b s).suOrigin = s.suOrigin := rfl
@[simp] theorem pushRx_suArmed (b : Byte) : (pushRx b s).suArmed = s.suArmed := rfl
@[simp] theorem pushRx_suMatch (b : Byte) : (pushRx b s).suMatch = s.suMatch := rfl
@[simp] theorem pushRx_frmLen (b : Byte) : (pushRx b s).frmLen = s.frmLen := rfl
@[simp] theorem pushRx_frmColl (b : Byte) : (pushRx b s).frmColl = s.frmColl := rfl
@[simp] theorem pushRx_evf (b : Byte) : (pushRx b s).evf = s.evf := rfl
@[simp] theorem pushRx_mode (b : Byte) : (pushRx b s).mode = s.mode := rfl
@[simp] theorem pushRx_fault (b : Byte) : (pushRx b s).fault = s.fault := rfl
@[simp] theorem pushRx_sleep (b : Byte) : (pushRx b s).sleep = s.sleep := rfl
@[simp] theorem pushRx_scPhase (b : Byte) : (pushRx b s).scPhase = s.scPhase := rfl
@[simp] theorem pushRx_buf (b : Byte) : (pushRx b s).buf = s.buf := rfl
@[simp] theorem pushRx_frm (b : Byte) : (pushRx b s).frm = s.frm := rfl
@[simp] theorem pushRx_fifo (b : Byte) : (pushRx b s).fifo = s.fifo := rfl
@[simp] theorem pushRx_rxq (b : Byte) : (pushRx b s).rxq = s.rxq ++ [b] := rfl
@[simp] theorem pushRx_tx (b : Byte) : (pushRx b s).tx = s.tx := rfl
@[simp] theorem pushRx_act (b : Byte) : (pushRx b s).act = s.act := rfl
@[simp] theorem pushRx_card (b : Byte) : (pushRx b s).card = s.card := rfl
@[simp] theorem pushRx_par (b : Byte) : (pushRx b s).par = s.par := rfl
@[simp] theorem pushRx_stim (b : Byte) : (pushRx b s).stim = s.stim := rfl
@[simp] theorem pushRx_cardTable (b : Byte) : (pushRx b s).cardTable = s.cardTable := rfl
@[simp] theorem pushRx_drawn (b : Byte) : (pushRx b s).drawn = s.drawn := rfl

/-! ### `setPhase` -/

@[simp] theorem setPhase_wgAcc (p : ScPhase) : (setPhase p s).wgAcc = s.wgAcc := rfl
@[simp] theorem setPhase_wgBit (p : ScPhase) : (setPhase p s).wgBit = s.wgBit := rfl
@[simp] theorem setPhase_cnt (p : ScPhase) : (setPhase p s).cnt = s.cnt := rfl
@[simp] theorem setPhase_secs (p : ScPhase) : (setPhase p s).secs = s.secs := rfl
@[simp] theorem setPhase_suState (p : ScPhase) : (setPhase p s).suState = s.suState := rfl
@[simp] theorem setPhase_suBits (p : ScPhase) : (setPhase p s).suBits = s.suBits := rfl
@[simp] theorem setPhase_suByte (p : ScPhase) : (setPhase p s).suByte = s.suByte := rfl
@[simp] theorem setPhase_suOrigin (p : ScPhase) : (setPhase p s).suOrigin = s.suOrigin := rfl
@[simp] theorem setPhase_suArmed (p : ScPhase) : (setPhase p s).suArmed = s.suArmed := rfl
@[simp] theorem setPhase_suMatch (p : ScPhase) : (setPhase p s).suMatch = s.suMatch := rfl
@[simp] theorem setPhase_frmLen (p : ScPhase) : (setPhase p s).frmLen = s.frmLen := rfl
@[simp] theorem setPhase_frmColl (p : ScPhase) : (setPhase p s).frmColl = s.frmColl := rfl
@[simp] theorem setPhase_evf (p : ScPhase) : (setPhase p s).evf = s.evf := rfl
@[simp] theorem setPhase_mode (p : ScPhase) : (setPhase p s).mode = s.mode := rfl
@[simp] theorem setPhase_fault (p : ScPhase) : (setPhase p s).fault = s.fault := rfl
@[simp] theorem setPhase_sleep (p : ScPhase) : (setPhase p s).sleep = s.sleep := rfl
@[simp] theorem setPhase_scPhase (p : ScPhase) : (setPhase p s).scPhase = p := rfl
@[simp] theorem setPhase_buf (p : ScPhase) : (setPhase p s).buf = s.buf := rfl
@[simp] theorem setPhase_frm (p : ScPhase) : (setPhase p s).frm = s.frm := rfl
@[simp] theorem setPhase_fifo (p : ScPhase) : (setPhase p s).fifo = s.fifo := rfl
@[simp] theorem setPhase_rxq (p : ScPhase) : (setPhase p s).rxq = s.rxq := rfl
@[simp] theorem setPhase_tx (p : ScPhase) : (setPhase p s).tx = s.tx := rfl
@[simp] theorem setPhase_act (p : ScPhase) : (setPhase p s).act = s.act := rfl
@[simp] theorem setPhase_card (p : ScPhase) : (setPhase p s).card = s.card := rfl
@[simp] theorem setPhase_par (p : ScPhase) : (setPhase p s).par = s.par := rfl
@[simp] theorem setPhase_stim (p : ScPhase) : (setPhase p s).stim = s.stim := rfl
@[simp] theorem setPhase_cardTable (p : ScPhase) : (setPhase p s).cardTable = s.cardTable := rfl
@[simp] theorem setPhase_drawn (p : ScPhase) : (setPhase p s).drawn = s.drawn := rfl

/-! ### `setMode` -/

@[simp] theorem setMode_wgAcc (m : Mode) : (setMode m s).wgAcc = s.wgAcc := rfl
@[simp] theorem setMode_wgBit (m : Mode) : (setMode m s).wgBit = s.wgBit := rfl
@[simp] theorem setMode_cnt (m : Mode) : (setMode m s).cnt = s.cnt := rfl
@[simp] theorem setMode_secs (m : Mode) : (setMode m s).secs = s.secs := rfl
@[simp] theorem setMode_suState (m : Mode) : (setMode m s).suState = s.suState := rfl
@[simp] theorem setMode_suBits (m : Mode) : (setMode m s).suBits = s.suBits := rfl
@[simp] theorem setMode_suByte (m : Mode) : (setMode m s).suByte = s.suByte := rfl
@[simp] theorem setMode_suOrigin (m : Mode) : (setMode m s).suOrigin = s.suOrigin := rfl
@[simp] theorem setMode_suArmed (m : Mode) : (setMode m s).suArmed = s.suArmed := rfl
@[simp] theorem setMode_suMatch (m : Mode) : (setMode m s).suMatch = s.suMatch := rfl
@[simp] theorem setMode_frmLen (m : Mode) : (setMode m s).frmLen = s.frmLen := rfl
@[simp] theorem setMode_frmColl (m : Mode) : (setMode m s).frmColl = s.frmColl := rfl
@[simp] theorem setMode_evf (m : Mode) : (setMode m s).evf = s.evf := rfl
@[simp] theorem setMode_mode (m : Mode) : (setMode m s).mode = m := rfl
@[simp] theorem setMode_fault (m : Mode) : (setMode m s).fault = s.fault := rfl
@[simp] theorem setMode_sleep (m : Mode) : (setMode m s).sleep = s.sleep := rfl
@[simp] theorem setMode_scPhase (m : Mode) : (setMode m s).scPhase = s.scPhase := rfl
@[simp] theorem setMode_buf (m : Mode) : (setMode m s).buf = s.buf := rfl
@[simp] theorem setMode_frm (m : Mode) : (setMode m s).frm = s.frm := rfl
@[simp] theorem setMode_fifo (m : Mode) : (setMode m s).fifo = s.fifo := rfl
@[simp] theorem setMode_rxq (m : Mode) : (setMode m s).rxq = s.rxq := rfl
@[simp] theorem setMode_tx (m : Mode) : (setMode m s).tx = s.tx := rfl
@[simp] theorem setMode_act (m : Mode) : (setMode m s).act = s.act := rfl
@[simp] theorem setMode_card (m : Mode) : (setMode m s).card = s.card := rfl
@[simp] theorem setMode_par (m : Mode) : (setMode m s).par = s.par := rfl
@[simp] theorem setMode_stim (m : Mode) : (setMode m s).stim = s.stim := rfl
@[simp] theorem setMode_cardTable (m : Mode) : (setMode m s).cardTable = s.cardTable := rfl
@[simp] theorem setMode_drawn (m : Mode) : (setMode m s).drawn = s.drawn := rfl

/-! ### `wgRestart` -/

@[simp] theorem wgRestart_wgAcc : (wgRestart s).wgAcc = 0#8 := rfl
@[simp] theorem wgRestart_wgBit : (wgRestart s).wgBit = 0 := rfl
@[simp] theorem wgRestart_cnt : (wgRestart s).cnt = s.cnt := rfl
@[simp] theorem wgRestart_secs : (wgRestart s).secs = s.secs := rfl
@[simp] theorem wgRestart_suState : (wgRestart s).suState = s.suState := rfl
@[simp] theorem wgRestart_suBits : (wgRestart s).suBits = s.suBits := rfl
@[simp] theorem wgRestart_suByte : (wgRestart s).suByte = s.suByte := rfl
@[simp] theorem wgRestart_suOrigin : (wgRestart s).suOrigin = s.suOrigin := rfl
@[simp] theorem wgRestart_suArmed : (wgRestart s).suArmed = s.suArmed := rfl
@[simp] theorem wgRestart_suMatch : (wgRestart s).suMatch = s.suMatch := rfl
@[simp] theorem wgRestart_frmLen : (wgRestart s).frmLen = s.frmLen := rfl
@[simp] theorem wgRestart_frmColl : (wgRestart s).frmColl = s.frmColl := rfl
@[simp] theorem wgRestart_evf : (wgRestart s).evf = s.evf := rfl
@[simp] theorem wgRestart_mode : (wgRestart s).mode = s.mode := rfl
@[simp] theorem wgRestart_fault : (wgRestart s).fault = s.fault := rfl
@[simp] theorem wgRestart_sleep : (wgRestart s).sleep = s.sleep := rfl
@[simp] theorem wgRestart_scPhase : (wgRestart s).scPhase = s.scPhase := rfl
@[simp] theorem wgRestart_buf : (wgRestart s).buf = s.buf := rfl
@[simp] theorem wgRestart_frm : (wgRestart s).frm = s.frm := rfl
@[simp] theorem wgRestart_fifo : (wgRestart s).fifo = s.fifo := rfl
@[simp] theorem wgRestart_rxq : (wgRestart s).rxq = s.rxq := rfl
@[simp] theorem wgRestart_tx : (wgRestart s).tx = s.tx := rfl
@[simp] theorem wgRestart_act : (wgRestart s).act = s.act := rfl
@[simp] theorem wgRestart_card : (wgRestart s).card = s.card := rfl
@[simp] theorem wgRestart_par : (wgRestart s).par = s.par := rfl
@[simp] theorem wgRestart_stim : (wgRestart s).stim = s.stim := rfl
@[simp] theorem wgRestart_cardTable : (wgRestart s).cardTable = s.cardTable := rfl
@[simp] theorem wgRestart_drawn : (wgRestart s).drawn = s.drawn := rfl

/-! ### `suDisarm` -/

@[simp] theorem suDisarm_wgAcc : (suDisarm s).wgAcc = s.wgAcc := rfl
@[simp] theorem suDisarm_wgBit : (suDisarm s).wgBit = s.wgBit := rfl
@[simp] theorem suDisarm_cnt : (suDisarm s).cnt = s.cnt := rfl
@[simp] theorem suDisarm_secs : (suDisarm s).secs = s.secs := rfl
@[simp] theorem suDisarm_suState : (suDisarm s).suState = s.suState := rfl
@[simp] theorem suDisarm_suBits : (suDisarm s).suBits = s.suBits := rfl
@[simp] theorem suDisarm_suByte : (suDisarm s).suByte = s.suByte := rfl
@[simp] theorem suDisarm_suOrigin : (suDisarm s).suOrigin = s.suOrigin := rfl
@[simp] theorem suDisarm_suArmed : (suDisarm s).suArmed = false := rfl
@[simp] theorem suDisarm_suMatch : (suDisarm s).suMatch = s.suMatch := rfl
@[simp] theorem suDisarm_frmLen : (suDisarm s).frmLen = s.frmLen := rfl
@[simp] theorem suDisarm_frmColl : (suDisarm s).frmColl = s.frmColl := rfl
@[simp] theorem suDisarm_evf : (suDisarm s).evf = s.evf := rfl
@[simp] theorem suDisarm_mode : (suDisarm s).mode = s.mode := rfl
@[simp] theorem suDisarm_fault : (suDisarm s).fault = s.fault := rfl
@[simp] theorem suDisarm_sleep : (suDisarm s).sleep = s.sleep := rfl
@[simp] theorem suDisarm_scPhase : (suDisarm s).scPhase = s.scPhase := rfl
@[simp] theorem suDisarm_buf : (suDisarm s).buf = s.buf := rfl
@[simp] theorem suDisarm_frm : (suDisarm s).frm = s.frm := rfl
@[simp] theorem suDisarm_fifo : (suDisarm s).fifo = s.fifo := rfl
@[simp] theorem suDisarm_rxq : (suDisarm s).rxq = s.rxq := rfl
@[simp] theorem suDisarm_tx : (suDisarm s).tx = s.tx := rfl
@[simp] theorem suDisarm_act : (suDisarm s).act = s.act := rfl
@[simp] theorem suDisarm_card : (suDisarm s).card = s.card := rfl
@[simp] theorem suDisarm_par : (suDisarm s).par = s.par := rfl
@[simp] theorem suDisarm_stim : (suDisarm s).stim = s.stim := rfl
@[simp] theorem suDisarm_cardTable : (suDisarm s).cardTable = s.cardTable := rfl
@[simp] theorem suDisarm_drawn : (suDisarm s).drawn = s.drawn := rfl

/-! ### `suAwait` -/

@[simp] theorem suAwait_wgAcc : (suAwait s).wgAcc = s.wgAcc := rfl
@[simp] theorem suAwait_wgBit : (suAwait s).wgBit = s.wgBit := rfl
@[simp] theorem suAwait_cnt : (suAwait s).cnt = s.cnt := rfl
@[simp] theorem suAwait_secs : (suAwait s).secs = s.secs := rfl
@[simp] theorem suAwait_suState : (suAwait s).suState = .awaitStart := rfl
@[simp] theorem suAwait_suBits : (suAwait s).suBits = s.suBits := rfl
@[simp] theorem suAwait_suByte : (suAwait s).suByte = s.suByte := rfl
@[simp] theorem suAwait_suOrigin : (suAwait s).suOrigin = s.suOrigin := rfl
@[simp] theorem suAwait_suArmed : (suAwait s).suArmed = s.suArmed := rfl
@[simp] theorem suAwait_suMatch : (suAwait s).suMatch = s.suMatch := rfl
@[simp] theorem suAwait_frmLen : (suAwait s).frmLen = s.frmLen := rfl
@[simp] theorem suAwait_frmColl : (suAwait s).frmColl = s.frmColl := rfl
@[simp] theorem suAwait_evf : (suAwait s).evf = s.evf := rfl
@[simp] theorem suAwait_mode : (suAwait s).mode = s.mode := rfl
@[simp] theorem suAwait_fault : (suAwait s).fault = s.fault := rfl
@[simp] theorem suAwait_sleep : (suAwait s).sleep = s.sleep := rfl
@[simp] theorem suAwait_scPhase : (suAwait s).scPhase = s.scPhase := rfl
@[simp] theorem suAwait_buf : (suAwait s).buf = s.buf := rfl
@[simp] theorem suAwait_frm : (suAwait s).frm = s.frm := rfl
@[simp] theorem suAwait_fifo : (suAwait s).fifo = s.fifo := rfl
@[simp] theorem suAwait_rxq : (suAwait s).rxq = s.rxq := rfl
@[simp] theorem suAwait_tx : (suAwait s).tx = s.tx := rfl
@[simp] theorem suAwait_act : (suAwait s).act = s.act := rfl
@[simp] theorem suAwait_card : (suAwait s).card = s.card := rfl
@[simp] theorem suAwait_par : (suAwait s).par = s.par := rfl
@[simp] theorem suAwait_stim : (suAwait s).stim = s.stim := rfl
@[simp] theorem suAwait_cardTable : (suAwait s).cardTable = s.cardTable := rfl
@[simp] theorem suAwait_drawn : (suAwait s).drawn = s.drawn := rfl

/-! ### `suStart` -/

@[simp] theorem suStart_wgAcc (t : Nat) : (suStart t s).wgAcc = s.wgAcc := rfl
@[simp] theorem suStart_wgBit (t : Nat) : (suStart t s).wgBit = s.wgBit := rfl
@[simp] theorem suStart_cnt (t : Nat) : (suStart t s).cnt = s.cnt := rfl
@[simp] theorem suStart_secs (t : Nat) : (suStart t s).secs = s.secs := rfl
@[simp] theorem suStart_suState (t : Nat) : (suStart t s).suState = .sampling := rfl
@[simp] theorem suStart_suBits (t : Nat) : (suStart t s).suBits = 0 := rfl
@[simp] theorem suStart_suByte (t : Nat) : (suStart t s).suByte = 0#8 := rfl
@[simp] theorem suStart_suOrigin (t : Nat) : (suStart t s).suOrigin = t := rfl
@[simp] theorem suStart_suArmed (t : Nat) : (suStart t s).suArmed = true := rfl
@[simp] theorem suStart_suMatch (t : Nat) : (suStart t s).suMatch = (t + s.par.suTimeout) % 2 ^ s.par.timerW := rfl
@[simp] theorem suStart_frmLen (t : Nat) : (suStart t s).frmLen = s.frmLen := rfl
@[simp] theorem suStart_frmColl (t : Nat) : (suStart t s).frmColl = s.frmColl := rfl
@[simp] theorem suStart_evf (t : Nat) : (suStart t s).evf = s.evf := rfl
@[simp] theorem suStart_mode (t : Nat) : (suStart t s).mode = s.mode := rfl
@[simp] theorem suStart_fault (t : Nat) : (suStart t s).fault = s.fault := rfl
@[simp] theorem suStart_sleep (t : Nat) : (suStart t s).sleep = s.sleep := rfl
@[simp] theorem suStart_scPhase (t : Nat) : (suStart t s).scPhase = s.scPhase := rfl
@[simp] theorem suStart_buf (t : Nat) : (suStart t s).buf = s.buf := rfl
@[simp] theorem suStart_frm (t : Nat) : (suStart t s).frm = s.frm := rfl
@[simp] theorem suStart_fifo (t : Nat) : (suStart t s).fifo = s.fifo := rfl
@[simp] theorem suStart_rxq (t : Nat) : (suStart t s).rxq = s.rxq := rfl
@[simp] theorem suStart_tx (t : Nat) : (suStart t s).tx = s.tx := rfl
@[simp] theorem suStart_act (t : Nat) : (suStart t s).act = s.act := rfl
@[simp] theorem suStart_card (t : Nat) : (suStart t s).card = s.card := rfl
@[simp] theorem suStart_par (t : Nat) : (suStart t s).par = s.par := rfl
@[simp] theorem suStart_stim (t : Nat) : (suStart t s).stim = s.stim := rfl
@[simp] theorem suStart_cardTable (t : Nat) : (suStart t s).cardTable = s.cardTable := rfl
@[simp] theorem suStart_drawn (t : Nat) : (suStart t s).drawn = s.drawn := rfl

/-! ### Flag tests -/

/-- A flag is set after it is raised, and no other flag changes. -/
@[simp] theorem flagSet_raiseFlag (f g : EventFlag) :
    flagSet g (raiseFlag f s) = (flagSet g s || decide (f = g)) := by
  cases f <;> cases g <;> simp [flagSet, raiseFlag, flagBit]

/-- A flag is clear after it is cleared, and no other flag changes. -/
@[simp] theorem flagSet_clearFlag (f g : EventFlag) :
    flagSet g (clearFlag f s) = (flagSet g s && !decide (f = g)) := by
  cases f <;> cases g <;> simp [flagSet, clearFlag, flagBit]

/-- `EVF` is 0 exactly when no flag is set. -/
theorem evf_eq_zero_iff :
    s.evf = 0#3 ↔ flagSet .rx s = false ∧ flagSet .tick s = false ∧ flagSet .appended s = false := by
  simp only [flagSet, flagBit]
  generalize s.evf = e
  revert e
  decide

/-- A flag test reads `EVF` alone. -/
theorem flagSet_congr {s s' : State} (h : s'.evf = s.evf) (f : EventFlag) : flagSet f s' = flagSet f s := by
  simp [flagSet, h]

end Sys2Proof.Machine
end

