-- ==== Sys2Proof/Laws/Ops.lean ====
section
/-!
SUPPORT. For each shared operation, one lemma that says once everything it can do.
-/
namespace Sys2Proof.Machine

variable (s : State)

/-! ## The assembler's procedures -/

/-- `csa_write` appends, or the buffer is full and nothing changes (spec/42_assembler.md R171). -/
theorem csaWrite_cases (b : Byte) :
    (∃ h : s.cnt.val < 255,
      csaWrite b s =
        { s with buf := Memory.write .buf s.buf s.cnt.val b, cnt := ⟨s.cnt.val + 1, by omega⟩ }) ∨
    (255 ≤ s.cnt.val ∧ csaWrite b s = s) := by
  by_cases h : s.cnt.val < 255
  · exact .inl ⟨h, by simp [csaWrite, h]⟩
  · exact .inr ⟨by omega, by simp [csaWrite, h]⟩

/-- After `csa_reset` every byte of `BUF` reads as the filler (spec/42_assembler.md R172). -/
theorem read_csaReset (i : Nat) : Memory.read .buf (csaReset s).buf i = BitVec.ofNat 8 i := rfl

/-- A chip commit of an identifier of at most 255 bytes (spec/42_assembler.md R186). -/
theorem chipCommit_eq {id : List Byte} (h : id.length ≤ 255) :
    chipCommit id s =
      { s with
        buf := Memory.writeFrom .buf s.buf 0 id
        cnt := ⟨id.length, by omega⟩
        act := s.act ++ [.blink3] } := by
  have h' : id.length < 257 := by omega
  simp [chipCommit, h', commitBytes, perform]

/-- What being in the chip collaborator's contract says (spec/42_assembler.md R185). -/
theorem inContract_iff (p : Params) (id : List Byte) :
    inContract p id = true ↔ 1 ≤ id.length ∧ id.length ≤ p.chipIdMax.toNat := by
  simp [inContract]

/-- An identifier in the contract has at most 255 bytes. -/
theorem length_of_inContract {p : Params} {id : List Byte} (h : inContract p id = true) :
    id.length ≤ 255 := by
  have := (inContract_iff p id).1 h
  have := p.chipIdMax.isLt
  omega

/-- A chip poll commits an identifier into an empty buffer, or changes nothing (spec/42_assembler.md
R185, R187). -/
theorem chipPoll_cases :
    (∃ id, ∃ h : id.length ≤ 255, s.card = some id ∧ inContract s.par id = true ∧ s.cnt.val = 0 ∧
      chipPoll s =
        { s with
          buf := Memory.writeFrom .buf s.buf 0 id
          cnt := ⟨id.length, by omega⟩
          act := s.act ++ [.blink3] }) ∨
    ((∀ id, s.card = some id → ¬ (inContract s.par id = true ∧ s.cnt.val = 0)) ∧ chipPoll s = s) := by
  cases hc : s.card with
  | none => exact .inr ⟨by simp, by simp [chipPoll, hc]⟩
  | some id =>
    by_cases h : inContract s.par id = true ∧ s.cnt.val = 0
    · have hl := length_of_inContract h.1
      refine .inl ⟨id, hl, rfl, h.1, h.2, ?_⟩
      have : (inContract s.par id && s.cnt.val == 0) = true := by simp [h]
      simp only [chipPoll, hc, this, if_true]
      rw [← hc]; exact chipCommit_eq s hl
    · refine .inr ⟨fun id' hid => by cases hid; exact h, ?_⟩
      have : ¬ ((inContract s.par id && s.cnt.val == 0) = true) := by simpa using h
      simp only [chipPoll, hc, this, Bool.false_eq_true, if_false]

/-- What the session-end condition says (spec/42_assembler.md R188). -/
theorem sentinelLast_iff :
    sentinelLast s = true ↔
      0 < s.cnt.val ∧ Memory.read .buf s.buf (s.cnt.val - 1) = s.par.wgSentinel := by
  simp [sentinelLast]

/-- The three outcomes of the session-end check (spec/42_assembler.md R189). -/
theorem sessionEndCheck_cases :
    (sentinelLast s = false ∧ sessionEndCheck s = s) ∨
    (sentinelLast s = true ∧ 10 ≤ s.cnt.val ∧
      sessionEndCheck s =
        csaReset (send (hashLine (dgHash s.par.digest (bufMessage s))) s)) ∨
    (sentinelLast s = true ∧ s.cnt.val < 10 ∧ sessionEndCheck s = csaReset s) := by
  by_cases h : sentinelLast s = true
  · by_cases h10 : 10 ≤ s.cnt.val
    · exact .inr (.inl ⟨h, h10, by simp [sessionEndCheck, h, h10]⟩)
    · exact .inr (.inr ⟨h, by omega, by simp [sessionEndCheck, h, h10]⟩)
  · exact .inl ⟨by simpa using h, by simp [sessionEndCheck, h]⟩

/-- The idle timeout fires, or changes nothing (spec/42_assembler.md R191). -/
theorem idleTimeout_cases :
    (s.par.timeoutTicks < s.secs ∧
      idleTimeout s = { s with tx := s.tx ++ aliveLine, buf := [], cnt := 0, secs := 0 }) ∨
    (s.secs ≤ s.par.timeoutTicks ∧ idleTimeout s = s) := by
  by_cases h : s.par.timeoutTicks < s.secs
  · exact .inl ⟨h, by simp [idleTimeout, h, clearSecs, csaReset, send]⟩
  · exact .inr ⟨by omega, by simp [idleTimeout, h]⟩

/-- FRM.DATA stores a byte, marks the frame over-long, or discards the byte (spec/42_assembler.md R176). -/
theorem frameData_cases (b : Byte) :
    (∃ h : s.frmLen.val < 14, s.frmColl = true ∧
      frameData b s =
        { s with frm := Memory.write .frm s.frm s.frmLen.val b, frmLen := ⟨s.frmLen.val + 1, by omega⟩ }) ∨
    (14 ≤ s.frmLen.val ∧ s.frmColl = true ∧ frameData b s = { s with frmLen := 15 }) ∨
    (s.frmColl = false ∧ frameData b s = s) := by
  by_cases hc : s.frmColl = true
  · by_cases h : s.frmLen.val < 14
    · exact .inl ⟨h, hc, by simp [frameData, hc, h]⟩
    · exact .inr (.inl ⟨by omega, hc, by simp [frameData, hc, h]⟩)
  · exact .inr (.inr ⟨by simpa using hc, by simp [frameData, hc]⟩)

/-- What `frame_valid()` says (spec/42_assembler.md R177). -/
theorem frameValid_iff :
    frameValid s = true ↔
      s.frmLen.val = 14 ∧ s.cnt.val = 0 ∧ (∀ i, i < 12 → (hexval (frmAt s i)).isSome = true) ∧
        frameXor s = 0#8 ∧ frmAt s 12 = 13#8 ∧ frmAt s 13 = 10#8 := by
  simp only [frameValid, Bool.and_eq_true, beq_iff_eq, List.all_eq_true, List.mem_range, and_assoc]

/-- FRM.ETX commits a valid frame or discards what was collected; then no frame is being collected
(spec/42_assembler.md R177, R182 to R184). -/
theorem frameEnd_cases :
    (s.frmColl = true ∧ frameValid s = true ∧
      frameEnd s =
        { s with
          buf := Memory.writeFrom .buf s.buf 0 (frameId s)
          cnt := 10
          act := s.act ++ [.blink3]
          frmLen := 0
          frmColl := false }) ∨
    (¬ (s.frmColl = true ∧ frameValid s = true) ∧
      frameEnd s = { s with frmLen := 0, frmColl := false }) := by
  by_cases h : s.frmColl = true ∧ frameValid s = true
  · refine .inl ⟨h.1, h.2, ?_⟩
    simp [frameEnd, h.1, h.2, frameCommit, commitBytes, perform, frameClose]
  · refine .inr ⟨h, ?_⟩
    have : ¬ ((s.frmColl && frameValid s) = true) := by simpa using h
    simp only [frameEnd, this, Bool.false_eq_true, if_false, frameClose]

/-- A card-frame byte is one of its three classes (spec/42_assembler.md R174). -/
theorem frameByte_cases (b : Byte) :
    (b = 0x02#8 ∧ frameByte b s = frameStart s) ∨ (b = 0x03#8 ∧ frameByte b s = frameEnd s) ∨
      (b ≠ 0x02#8 ∧ b ≠ 0x03#8 ∧ frameByte b s = frameData b s) := by
  by_cases h2 : b = 0x02#8
  · exact .inl ⟨h2, by simp [frameByte, frameClass, h2]⟩
  · by_cases h3 : b = 0x03#8
    · exact .inr (.inl ⟨h3, by subst h3; rfl⟩)
    · exact .inr (.inr ⟨h2, h3, by simp [frameByte, frameClass, h2, h3]⟩)

/-! ## The Wiegand Decoder -/

/-- WG.CLK takes a bit (spec/40_wiegand.md R121). -/
theorem wgClock_partial (d : Bool) (h : s.wgBit.val + 1 < 8) :
    wgClock d s =
      { s with
        secs := 0
        wgAcc := if d then setBit s.wgAcc (7 - s.wgBit.val) else s.wgAcc
        wgBit := ⟨s.wgBit.val + 1, h⟩ } := by
  cases d <;> simp [wgClock, h, wgShift, clearSecs]

/-- WG.CLK completes a byte (spec/40_wiegand.md R124). -/
theorem wgClock_complete (d : Bool) (h : ¬ s.wgBit.val + 1 < 8) :
    wgClock d s =
      { csaWrite (if d then setBit s.wgAcc (7 - s.wgBit.val) else s.wgAcc) s with
        secs := 0, evf := s.evf ||| 4#3, wgBit := 0, wgAcc := 0#8 } := by
  have key : ∀ (b : Byte) (x : Byte),
      wgRestart (raiseFlag .appended (csaWrite b { s with secs := 0, wgAcc := x })) =
      { csaWrite b s with secs := 0, evf := s.evf ||| 4#3, wgBit := 0, wgAcc := 0#8 } := by
    intro b x
    by_cases hc : s.cnt.val < 255 <;>
      simp [csaWrite, hc, raiseFlag, flagBit, wgRestart]
  cases d
  · simpa [wgClock, h, wgShift, wgComplete, clearSecs] using key s.wgAcc s.wgAcc
  · simpa [wgClock, h, wgShift, wgComplete, clearSecs] using
      key (setBit s.wgAcc (7 - s.wgBit.val)) (setBit s.wgAcc (7 - s.wgBit.val))

/-! ## The Software UART Decoder -/

/-- `su_emit` pushes, or the FIFO is full and the overrun is recorded (spec/41_softuart.md R150, R151). -/
theorem suEmit_cases (b : Byte) :
    (s.fifo.length < 16 ∧ suEmit b s = { s with fifo := s.fifo ++ [b] }) ∨
    (16 ≤ s.fifo.length ∧ suEmit b s = { s with fault := s.fault ||| 1#1 }) := by
  by_cases h : s.fifo.length < 16
  · exact .inl ⟨h, by simp [suEmit, h]⟩
  · exact .inr ⟨by omega, by simp [suEmit, h, raiseOverrun]⟩

/-- Completion of a serial frame (spec/41_softuart.md R147, R152). -/
theorem suFinish_cases :
    (s.fifo.length < 16 ∧
      suFinish s = { s with suArmed := false, suState := .awaitStart, fifo := s.fifo ++ [s.suByte] }) ∨
    (16 ≤ s.fifo.length ∧
      suFinish s = { s with suArmed := false, suState := .awaitStart, fault := s.fault ||| 1#1 }) := by
  by_cases h : s.fifo.length < 16
  · exact .inl ⟨h, by simp [suFinish, suEmit, h, suAwait, suDisarm]⟩
  · exact .inr ⟨by omega, by simp [suFinish, suEmit, h, raiseOverrun, suAwait, suDisarm]⟩

/-- SU.MATCH with nothing armed changes nothing after the wake (spec/41_softuart.md R153). -/
theorem suMatch_unarmed (lv : Bool) (h : s.suArmed = false) : suMatch lv s = s := by simp [suMatch, h]

/-- SU.MATCH, armed, fills the byte, emits it and clears `SECS` (spec/41_softuart.md R152). -/
theorem suMatch_armed (lv : Bool) (h : s.suArmed = true) :
    suMatch lv s = clearSecs (suFinish (suFill (!lv) 8 (Nat.le_refl 8) s)) := by simp [suMatch, h]

/-- SU.EDGE awaiting a start edge (spec/41_softuart.md R143, R144). -/
theorem suEdge_await (lv : Bool) (t : Nat) (h : s.suState = .awaitStart) :
    suEdge lv t s = if lv = false then suStart t (clearSecs s) else clearSecs s := by
  simp [suEdge, h]

/-- SU.EDGE while sampling (spec/41_softuart.md R145 to R147). -/
theorem suEdge_sampling (lv : Bool) (t : Nat) (h : s.suState = .sampling) :
    suEdge lv t s =
      if (suSample lv t (clearSecs s)).suState = .awaitStart ∧ lv = false then
        suStart t (suSample lv t (clearSecs s))
      else suSample lv t (clearSecs s) := by
  simp [suEdge, h]

/-! ## The scheduler -/

/-- A host byte does one of six things (spec/44_scheduler.md R240 to R245). -/
theorem doCommand_cases (b : Byte) :
    (b = 0x4F#8 ∧ doCommand b s = perform .opened s) ∨
    (b = 0x44#8 ∧ doCommand b s = perform .day (setMode .day s)) ∨
    (b = 0x4E#8 ∧ doCommand b s = perform .night (setMode .night s)) ∨
    (b = 0x52#8 ∧ doCommand b s = perform .reject s) ∨
    (b = 0x56#8 ∧ doCommand b s = perform .validate s) ∨
    (b ∉ commandBytes ∧ doCommand b s = s) := by
  by_cases h1 : b = 0x4F#8
  · subst h1; exact .inl ⟨rfl, rfl⟩
  by_cases h2 : b = 0x44#8
  · subst h2; exact .inr (.inl ⟨rfl, rfl⟩)
  by_cases h3 : b = 0x4E#8
  · subst h3; exact .inr (.inr (.inl ⟨rfl, rfl⟩))
  by_cases h4 : b = 0x52#8
  · subst h4; exact .inr (.inr (.inr (.inl ⟨rfl, rfl⟩)))
  by_cases h5 : b = 0x56#8
  · subst h5; exact .inr (.inr (.inr (.inr (.inl ⟨rfl, rfl⟩))))
  refine .inr (.inr (.inr (.inr (.inr ⟨by simp [commandBytes, h1, h2, h3, h4, h5], ?_⟩))))
  simp [doCommand, hostCommand, h1, h2, h3, h4, h5, cmdReserved]

/-- When each branch is selected, as spec/opcode_table.json has it (spec/44_scheduler.md R231). -/
theorem selectBranch_cases :
    (s.scPhase = .tick2 ∧ selectBranch s = .tick2) ∨
    (s.scPhase = .top ∧ s.evf = 0#3 ∧ s.fifo = [] ∧ selectBranch s = .idle) ∨
    (s.scPhase = .top ∧ flagSet .rx s = true ∧ s.rxq ≠ [] ∧ selectBranch s = .cmd) ∨
    (s.scPhase = .top ∧ flagSet .rx s = true ∧ s.rxq = [] ∧ selectBranch s = .cmdclr) ∨
    (s.scPhase = .top ∧ flagSet .rx s = false ∧ s.fifo ≠ [] ∧ selectBranch s = .frame) ∨
    (s.scPhase = .top ∧ flagSet .rx s = false ∧ s.fifo = [] ∧ flagSet .appended s = true ∧
      selectBranch s = .append) ∨
    (s.scPhase = .top ∧ flagSet .rx s = false ∧ s.fifo = [] ∧ flagSet .appended s = false ∧
      flagSet .tick s = true ∧ selectBranch s = .tick1) := by
  cases hp : s.scPhase with
  | tick2 => exact .inl ⟨rfl, by simp [selectBranch, hp]⟩
  | top =>
    refine .inr ?_
    by_cases hi : s.evf = 0#3 ∧ s.fifo = []
    · exact .inl ⟨rfl, hi.1, hi.2, by simp [selectBranch, hp, hi.1, hi.2, State.fifoCnt]⟩
    refine .inr ?_
    have hi' : ¬ (s.evf = 0#3 ∧ s.fifoCnt = 0) := by simpa [State.fifoCnt] using hi
    have hsel : selectBranch s =
        if flagSet .rx s then (if s.rxq.isEmpty then .cmdclr else .cmd)
        else if 0 < s.fifoCnt then .frame
        else if flagSet .appended s then .append else .tick1 := by
      simp only [selectBranch, hp, reduceCtorEq, if_false, hi']
    cases hr : flagSet .rx s with
    | true =>
      cases hq : s.rxq with
      | nil => exact .inr (.inl ⟨rfl, rfl, rfl, by simp [hsel, hr, hq]⟩)
      | cons b bs => exact .inl ⟨rfl, rfl, by simp, by simp [hsel, hr, hq]⟩
    | false =>
      refine .inr (.inr ?_)
      cases hf : s.fifo with
      | cons b bs => exact .inl ⟨rfl, rfl, by simp, by simp [hsel, hr, hf, State.fifoCnt]⟩
      | nil =>
        refine .inr ?_
        cases ha : flagSet .appended s with
        | true => exact .inl ⟨rfl, rfl, rfl, rfl, by simp [hsel, hr, hf, ha, State.fifoCnt]⟩
        | false =>
          refine .inr ⟨rfl, rfl, rfl, rfl, ?_, by simp [hsel, hr, hf, ha, State.fifoCnt]⟩
          by_contra ht
          exact hi ⟨(evf_eq_zero_iff s).2 ⟨hr, by simpa using ht, ha⟩, hf⟩

/-- SC.CYCLE runs exactly when the scheduler is awake (spec/44_scheduler.md R231). -/
theorem execScCycle_next_iff (t : State) :
    execScCycle s = .next t ↔ s.sleep = false ∧ t = runBranch (selectBranch s) s := by
  unfold execScCycle
  cases s.sleep <;> simp [eq_comm]

/-- An operation that names a branch runs exactly when the scheduler is awake and selects it
(spec/30_encoding.md R95). -/
theorem takingBranch_next_iff (b : Branch) (work : State → State) (t : State) :
    takingBranch b work s = .next t ↔ s.sleep = false ∧ selectBranch s = b ∧ t = work s := by
  unfold takingBranch
  cases s.sleep
  · by_cases h : selectBranch s = b <;> simp [h, eq_comm]
  · simp

/-! ## Fetching -/

/-- A step takes the next stimulus word and runs what it decodes to (spec/30_encoding.md R92). -/
theorem step_next {w : EvtWord} {ws : List EvtWord} {i : Instr} (hs : s.stim = w :: ws)
    (hd : decodeEvt32 w = .ok i) : step s = exec i { s with stim := ws } := by
  simp [step, fetchOperation, nextStimulus, hs, hd]

/-- A step that answers a next state ran a decoded operation. -/
theorem step_next_cases {t : State} (h : step s = .next t) :
    ∃ w ws i, s.stim = w :: ws ∧ decodeEvt32 w = .ok i ∧ exec i { s with stim := ws } = .next t := by
  cases hs : s.stim with
  | nil => simp [step, fetchOperation, nextStimulus, hs] at h
  | cons w ws =>
    cases hd : decodeEvt32 w with
    | ok i => exact ⟨w, ws, i, rfl, hd, by rw [← step_next s hs hd]; exact h⟩
    | error e => simp [step, fetchOperation, nextStimulus, hs, hd] at h

end Sys2Proof.Machine
end

