-- ==== Sys2Proof/Laws/PerInstr.lean ====
section
/-!
SUPPORT. The statement made once per operation: the bits that the encoder gives an operation are those of
its row of spec/opcode_table.json.
-/
namespace Sys2Proof.Laws.InTable

/-- The check behind `Statement`. -/
def inTable (i : Instr) : Bool :=
  match encode i with
  | .evt w => (evtRows.filter fun r => r.covers w).map EvtRow.mnemonic == [i.coded.mnemonic]
  | .cmd b =>
    [("CMD.O", 0x4F#8), ("CMD.D", 0x44#8), ("CMD.N", 0x4E#8), ("CMD.R", 0x52#8),
      ("CMD.V", 0x56#8)].contains (i.mnemonic, b) || i == .cmdRsvd b
  | .frm b => [("FRM.STX", 0x02#8), ("FRM.ETX", 0x03#8)].contains (i.mnemonic, b) || i == .frmData b

/-- A stimulus operation's word is covered by the row of its own mnemonic (a branch of SC.CYCLE by
SC.CYCLE's row, spec/30_encoding.md R95) and by no other row; the byte of a command or card-frame
operation is the byte of its row, or for the two catch-all rows the byte it names. -/
def Statement (i : Instr) : Prop := inTable i = true

/-- The fields of a word under a mask: masks of whole fields may be applied field by field. -/
theorem covers_evtWord (n : String) (mo ma po pa : BitVec 8) (mt pt : BitVec 16) (op a : BitVec 8)
    (t : BitVec 16) :
    EvtRow.covers ⟨n, evtWord mo ma mt, evtWord po pa pt⟩ (evtWord op a t) =
      (op &&& mo == po && (a &&& ma == pa && t &&& mt == pt)) := by
  have h : evtWord op a t &&& evtWord mo ma mt = evtWord (op &&& mo) (a &&& ma) (t &&& mt) := by
    simp only [evtWord, ← BitVec.and_append]
  have inj : ∀ x y z x' y' z', (evtWord x y z = evtWord x' y' z') ↔ (x = x' ∧ y = y' ∧ z = z') := by
    intro x y z x' y' z'
    constructor
    · intro he
      exact ⟨by rw [← evtOp_evtWord x y z, he, evtOp_evtWord],
        by rw [← evtA_evtWord x y z, he, evtA_evtWord], by rw [← evtT_evtWord x y z, he, evtT_evtWord]⟩
    · rintro ⟨rfl, rfl, rfl⟩; rfl
  rw [Bool.eq_iff_iff]
  simp only [EvtRow.covers, h, beq_iff_eq, Bool.and_eq_true, inj]

/-- The rows with their masks and patterns cut into fields. -/
theorem evtRows_fields : evtRows =
    [ ⟨"WG.CLK", evtWord 0xFF#8 0xFE#8 0xFFFF#16, evtWord 0x01#8 0#8 0#16⟩,
      ⟨"SU.EDGE", evtWord 0xFF#8 0xFE#8 0x0000#16, evtWord 0x02#8 0#8 0#16⟩,
      ⟨"SU.MATCH", evtWord 0xFF#8 0xFE#8 0xFFFF#16, evtWord 0x03#8 0#8 0#16⟩,
      ⟨"TK.TICK", evtWord 0xFF#8 0xFF#8 0xFFFF#16, evtWord 0x04#8 0#8 0#16⟩,
      ⟨"BT.RX", evtWord 0xFF#8 0x00#8 0xFFFF#16, evtWord 0x05#8 0#8 0#16⟩,
      ⟨"BT.TXRDY", evtWord 0xFF#8 0xFF#8 0xFFFF#16, evtWord 0x06#8 0#8 0#16⟩,
      ⟨"ENV.CARD", evtWord 0xFF#8 0x00#8 0xFFFF#16, evtWord 0x07#8 0#8 0#16⟩,
      ⟨"SC.CYCLE", evtWord 0xFF#8 0xFF#8 0xFFFF#16, evtWord 0x08#8 0#8 0#16⟩ ] := by
  decide

theorem wgClk (d : Bool) : Statement (.wgClk d) := by unfold Statement; cases d <;> decide
theorem suEdge (lv : Bool) (t : BitVec 16) : Statement (.suEdge lv t) := by
  simp only [Statement, inTable, encode, evtRows_fields, List.filter, covers_evtWord]
  cases lv <;> simp [levelField, Instr.coded, Instr.mnemonic]
theorem suMatch (lv : Bool) : Statement (.suMatch lv) := by unfold Statement; cases lv <;> decide
theorem tkTick : Statement .tkTick := by unfold Statement; decide
theorem btRx (b : Byte) : Statement (.btRx b) := by
  simp only [Statement, inTable, encode, evtRows_fields, List.filter, covers_evtWord]
  simp [Instr.coded, Instr.mnemonic]
theorem btTxrdy : Statement .btTxrdy := by unfold Statement; decide
theorem envCard (k : Byte) : Statement (.envCard k) := by
  simp only [Statement, inTable, encode, evtRows_fields, List.filter, covers_evtWord]
  simp [Instr.coded, Instr.mnemonic]
theorem scCycle : Statement .scCycle := by unfold Statement; decide
theorem scTick2 : Statement .scTick2 := by unfold Statement; decide
theorem scIdle : Statement .scIdle := by unfold Statement; decide
theorem scCmd : Statement .scCmd := by unfold Statement; decide
theorem scCmdclr : Statement .scCmdclr := by unfold Statement; decide
theorem scFrame : Statement .scFrame := by unfold Statement; decide
theorem scAppend : Statement .scAppend := by unfold Statement; decide
theorem scTick1 : Statement .scTick1 := by unfold Statement; decide
theorem cmdO : Statement .cmdO := by unfold Statement; decide
theorem cmdD : Statement .cmdD := by unfold Statement; decide
theorem cmdN : Statement .cmdN := by unfold Statement; decide
theorem cmdR : Statement .cmdR := by unfold Statement; decide
theorem cmdV : Statement .cmdV := by unfold Statement; decide
theorem cmdRsvd (b : Byte) : Statement (.cmdRsvd b) := by simp [Statement, inTable, encode]
theorem frmStx : Statement .frmStx := by unfold Statement; decide
theorem frmEtx : Statement .frmEtx := by unfold Statement; decide
theorem frmData (b : Byte) : Statement (.frmData b) := by simp [Statement, inTable, encode]

end Sys2Proof.Laws.InTable
end

