-- ==== Sys2Proof/Tests/Slice0.lean ====
section
/-!
SUPPORT. Tests, each about one word or one step, and the witnesses that the hypotheses of the statements
can be met. Expected results are from spec/95_test_vectors.md (the vector is named) or from the rule named;
the parameters are the vector instantiation `V` of spec/00_scope.md R12.
-/
namespace Sys2Proof.Tests

open Sys2Proof Sys2Proof.Machine

/-- The state after reset under the vector instantiation, with the card table of
spec/95_test_vectors.md. -/
def V : State := { State.resetWith Params.vectorV with cardTable := [[0x04#8, 0xA1#8, 0xB2#8, 0xC3#8]] }

/-- The outcome is a next state that passes a test. -/
def nextIs (o : Host.Outcome State Fault Refusal) (p : State → Bool) : Bool :=
  match o with
  | .next t => p t
  | .fault _ => false
  | .refused _ => false

/-- The first `n` bytes of `BUF`. -/
def bufBytes (s : State) (n : Nat) : List Byte := Memory.bytes .buf s.buf 0 n

/-- The characters `0415AB12CD65`, carriage return, line feed: frame `G` of spec/95_test_vectors.md
section 2.3 without its control bytes. -/
def frameG : List Byte :=
  [0x30#8, 0x34#8, 0x31#8, 0x35#8, 0x41#8, 0x42#8, 0x31#8, 0x32#8, 0x43#8, 0x44#8, 0x36#8, 0x35#8,
    0x0D#8, 0x0A#8]

/-- Frame `G` is collected and its end has not come. -/
def VG : State := { V with frmColl := true, frmLen := 14, frm := Memory.writeFrom .frm [] 0 frameG }

/-- A serial frame with start edge at 0 has `n` data bits recorded, in `b`. -/
def VS (n : Fin 9) (b : Byte) : State :=
  { V with suState := .sampling, suArmed := true, suMatch := 1100, suBits := n, suByte := b }

/-- Sixteen bytes. -/
def sixteen : List Byte := List.replicate 16 0x41#8

/-- A session of `n` bytes 1 and then `b`. -/
def VB (n : Nat) (b : Byte) (cnt : Fin 257) : State :=
  { V with buf := Memory.writeFrom .buf [] 0 (List.replicate n 1#8 ++ [b]), cnt := cnt, evf := 4#3 }

/-! ## Well-formedness: the ill-formed terms that its two checks refuse -/

theorem test_wf_refuses_command_letter : commandBytes.map (fun b => (Instr.cmdRsvd b).wellFormed) =
    [false, false, false, false, false] := by decide
theorem test_wf_refuses_stx_as_data : (Instr.frmData 0x02#8).wellFormed = false := by decide
theorem test_wf_refuses_etx_as_data : (Instr.frmData 0x03#8).wellFormed = false := by decide
theorem test_wf_accepts_lower_case : (Instr.cmdRsvd 0x6F#8).wellFormed = true := by decide

/-! ## Decoding: words written out bit by bit from spec/30_encoding.md R91, R93, R96, R97 -/

theorem test_decode_wgClk :
    decode (.evt 0b00000001000000010000000000000000#32) = .ok (.wgClk true) := by decide
theorem test_decode_suEdge :
    decode (.evt 0b00000010000000000000010010110000#32) = .ok (.suEdge false 1200#16) := by decide
theorem test_decode_suMatch :
    decode (.evt 0b00000011000000010000000000000000#32) = .ok (.suMatch true) := by decide
theorem test_decode_tkTick :
    decode (.evt 0b00000100000000000000000000000000#32) = .ok .tkTick := by decide
theorem test_decode_btRx :
    decode (.evt 0b00000101010011110000000000000000#32) = .ok (.btRx 0x4F#8) := by decide
theorem test_decode_btTxrdy :
    decode (.evt 0b00000110000000000000000000000000#32) = .ok .btTxrdy := by decide
theorem test_decode_envCard :
    decode (.evt 0b00000111000000010000000000000000#32) = .ok (.envCard 1#8) := by decide
theorem test_decode_scCycle :
    decode (.evt 0b00001000000000000000000000000000#32) = .ok .scCycle := by decide
/-- R95: the seven branches have SC.CYCLE's one encoding. -/
theorem test_encode_branches :
    [Branch.tick2, .idle, .cmd, .cmdclr, .frame, .append, .tick1].map (fun b => encode (branchOperation b)) =
      List.replicate 7 (.evt 0b00001000000000000000000000000000#32) := by decide
theorem test_decode_commands :
    [0b01001111#8, 0b01000100#8, 0b01001110#8, 0b01010010#8, 0b01010110#8, 0b01101111#8].map decodeCmd8 =
      [.cmdO, .cmdD, .cmdN, .cmdR, .cmdV, .cmdRsvd 0x6F#8] := by decide
theorem test_decode_frame_bytes :
    [0b00000010#8, 0b00000011#8, 0b00001101#8].map decodeFrm8 = [.frmStx, .frmEtx, .frmData 13#8] := by
  decide
/-- R105: `op` 0x00 and 0x09 are reserved. -/
theorem test_decode_reserved_op :
    [0x00000000#32, 0x09000000#32].map decodeEvt32 = [.error .reservedOp, .error .reservedOp] := by decide
/-- R94: unused operand bits must be zero. -/
theorem test_decode_unused_bits :
    [0x01020000#32, 0x01000001#32, 0x04010000#32, 0x05000001#32].map decodeEvt32 =
      List.replicate 4 (.error .unusedOperandBits) := by decide
theorem test_tableWord_evt : decodeTableWord 32 0x020004B0 = some (.suEdge false 1200#16) := by decide
theorem test_tableWord_bytes :
    [0x4F, 0x02, 0x41, 0x00].map (decodeTableWord 8) =
      [some .cmdO, some .frmStx, some (.frmData 0x41#8), some (.cmdRsvd 0#8)] := by decide
/-- `withFetchWord` makes SC.CYCLE take the branch of the byte it places (log entry 8). -/
theorem test_withFetchWord_runs_command :
    nextIs (step (V.withFetchWord 8 0x4F)) (fun t => t.act == [.opened] && t.rxq == []) = true := by decide
theorem test_withFetchWord_runs_frame_byte :
    nextIs (step (V.withFetchWord 8 0x02)) (fun t => t.frmColl && t.fifo == []) = true := by decide
theorem test_withFetchWord_runs_word :
    nextIs (step (V.withFetchWord 32 0x04000000)) (fun t => t.secs == 1) = true := by decide

/-! ## One step -/

/-- W6. -/
theorem test_wgClk_low_bit :
    nextIs (exec (.wgClk false) { V with secs := 19, sleep := true, wgBit := 2, wgAcc := 0x40#8 })
      (· == { V with secs := 0, sleep := false, wgBit := 3, wgAcc := 0x40#8 }) = true := by decide
/-- The eighth edge of W9. -/
theorem test_wgClk_completes :
    nextIs (exec (.wgClk false) { V with wgBit := 7, wgAcc := 0xB6#8 }) (fun t =>
      bufBytes t 2 == [0xB6#8, 1#8] && t.cnt.val == 1 && t.evf == 4#3 && t.wgAcc == 0#8 && t.wgBit == 0) =
      true := by decide
/-- U12. -/
theorem test_suEdge_wraps :
    nextIs (exec (.suEdge true 264#16) { VS 0 0#8 with suOrigin := 65500 }) (fun t =>
      t.suByte == 3#8 && t.suBits.val == 2 && t.suState == .sampling) = true := by decide
/-- U11: completion and the next start edge at one transition. -/
theorem test_suEdge_completes_and_starts :
    nextIs (exec (.suEdge false 1000#16) (VS 7 0x55#8)) (fun t =>
      t.fifo == [0x55#8] && t.suOrigin == 1000 && t.suMatch == 2100 && t.suState == .sampling) = true := by
  decide
/-- U20. -/
theorem test_suMatch_completes :
    nextIs (exec (.suMatch true) { VS 2 2#8 with secs := 15 })
      (· == { VS 8 2#8 with secs := 0, suState := .awaitStart, suArmed := false, fifo := [2#8] }) = true := by
  decide
/-- U19: the seventeenth byte. -/
theorem test_suMatch_overruns :
    nextIs (exec (.suMatch true) { VS 2 2#8 with fifo := sixteen }) (fun t =>
      t.fifo == sixteen && t.fault == 1#1) = true := by decide
/-- S4. -/
theorem test_tkTick_counts :
    nextIs (exec .tkTick { V with secs := 20, sleep := true })
      (· == { V with secs := 21, evf := 2#3 }) = true := by decide
/-- S9. -/
theorem test_tkTick_wraps :
    nextIs (exec .tkTick { V with secs := 65535 }) (· == { V with evf := 2#3 }) = true := by decide
/-- R237. -/
theorem test_btRx :
    nextIs (exec (.btRx 0x4F#8) { V with rxq := [1#8] })
      (· == { V with rxq := [1#8, 0x4F#8], evf := 1#3 }) = true := by decide
/-- S2. -/
theorem test_btTxrdy :
    nextIs (exec .btTxrdy { V with sleep := true }) (· == V) = true := by decide
/-- S19. -/
theorem test_envCard :
    nextIs (exec (.envCard 1#8) { V with sleep := true })
      (· == { V with sleep := true, card := some [0x04#8, 0xA1#8, 0xB2#8, 0xC3#8] }) = true := by decide
theorem test_envCard_removes :
    nextIs (exec (.envCard 0#8) { V with card := some [1#8] }) (· == V) = true := by decide
/-- S3. -/
theorem test_scCycle_asleep : exec .scCycle { V with sleep := true } = .fault .schedulerAsleep := by rfl
/-- S18. -/
theorem test_scCycle_finishes_tick :
    nextIs (exec .scCycle { V with scPhase := .tick2, evf := 3#3, rxq := [0x4F#8], secs := 5 })
      (· == { V with evf := 1#3, rxq := [0x4F#8], secs := 5 }) = true := by decide
/-- The example of R191. -/
theorem test_scTick2_times_out :
    nextIs (exec .scTick2 { VB 2 1#8 3 with scPhase := .tick2, evf := 2#3, secs := 21 })
      (· == { V with tx := [0x41#8, 0x4C#8, 0x49#8, 0x56#8, 0x45#8, 0x0A#8] }) = true := by decide
/-- S5. -/
theorem test_scTick2_at_threshold :
    nextIs (exec .scTick2 { V with scPhase := .tick2, evf := 2#3, secs := 20 })
      (· == { V with secs := 20 }) = true := by decide
/-- S1. -/
theorem test_scIdle :
    nextIs (exec .scIdle V) (· == { V with sleep := true }) = true := by decide
/-- S11. -/
theorem test_scCmd_night :
    nextIs (exec .scCmd { V with rxq := [0x4E#8], evf := 1#3 })
      (· == { V with mode := .night, act := [.night], evf := 1#3 }) = true := by decide
/-- S16. -/
theorem test_scCmd_lower_case :
    nextIs (exec .scCmd { V with rxq := [0x6F#8], evf := 1#3 })
      (· == { V with evf := 1#3 }) = true := by decide
/-- S10. -/
theorem test_scCmdclr :
    nextIs (exec .scCmdclr { V with evf := 5#3 }) (· == { V with evf := 4#3 }) = true := by decide
/-- S17. -/
theorem test_scFrame :
    nextIs (exec .scFrame { V with fifo := [0x02#8, 0x30#8] })
      (· == { V with fifo := [0x30#8], frmColl := true }) = true := by decide
/-- A7. -/
theorem test_scAppend_empty :
    nextIs (exec .scAppend { V with evf := 4#3 }) (· == V) = true := by decide
/-- A4. -/
theorem test_scAppend_short :
    nextIs (exec .scAppend (VB 0 0xB4#8 1)) (· == V) = true := by decide
/-- A8. -/
theorem test_scTick1_commits :
    nextIs (exec .scTick1 { V with card := some [4#8, 0xA1#8, 0xB2#8, 0xC3#8], evf := 2#3 }) (fun t =>
      bufBytes t 5 == [4#8, 0xA1#8, 0xB2#8, 0xC3#8, 4#8] && t.cnt.val == 4 && t.act == [.blink3] &&
        t.scPhase == .tick2 && t.evf == 2#3) = true := by decide
/-- A9. -/
theorem test_scTick1_discards :
    nextIs (exec .scTick1 { V with card := some [4#8], evf := 2#3, cnt := 2 })
      (· == { V with card := some [4#8], evf := 2#3, cnt := 2, scPhase := .tick2 }) = true := by decide
/-- S14, S15 and R240. -/
theorem test_commands_act : [Instr.cmdO, .cmdR, .cmdV].map (fun i => exec i V) =
    [.next { V with act := [.opened] }, .next { V with act := [.reject] },
      .next { V with act := [.validate] }] := by rfl
/-- S13. -/
theorem test_cmdD :
    nextIs (exec .cmdD { V with mode := .night }) (· == { V with act := [.day] }) = true := by decide
/-- S12. -/
theorem test_cmdN :
    nextIs (exec .cmdN { V with mode := .night })
      (· == { V with mode := .night, act := [.night] }) = true := by decide
/-- R245. -/
theorem test_cmdRsvd :
    nextIs (exec (.cmdRsvd 0x0A#8) V) (· == V) = true := by decide
/-- The example of R175. -/
theorem test_frmStx :
    nextIs (exec .frmStx { V with frmLen := 9, frmColl := true })
      (· == { V with frmColl := true }) = true := by decide
/-- F1. -/
theorem test_frmEtx_commits :
    nextIs (exec .frmEtx VG) (fun t =>
      bufBytes t 12 == frameG.take 10 ++ [10#8, 11#8] && t.cnt.val == 10 && t.act == [.blink3] &&
        t.frmLen.val == 0 && !t.frmColl && t.evf == 0#3) = true := by decide
/-- F3: one bit of the first character inverted. -/
theorem test_frmEtx_rejects :
    nextIs (exec .frmEtx { VG with frm := Memory.write .frm VG.frm 0 0x31#8 }) (fun t =>
      t.buf == [] && t.cnt.val == 0 && t.act == [] && !t.frmColl) = true := by decide
/-- The example of R176. -/
theorem test_frmData_stores :
    nextIs (exec (.frmData 0x0A#8) { V with frmColl := true, frmLen := 13 }) (fun t =>
      Memory.read .frm t.frm 13 == 0x0A#8 && t.frmLen.val == 14) = true := by decide
/-- F6: the fifteenth byte. -/
theorem test_frmData_saturates :
    nextIs (exec (.frmData 0x0A#8) VG) (· == { VG with frmLen := 15 }) = true := by decide
/-- G2. -/
theorem test_hashLine :
    hashLine #v[0xA1#8, 0x48#8, 0x1F#8, 0x07#8, 0x1D#8, 0xE3#8, 0x11#8, 0x8E#8, 0x2C#8, 0xF4#8, 0x1E#8,
      0x13#8, 0xE7#8, 0x76#8, 0xB3#8, 0x05#8, 0x51#8, 0xE1#8, 0x54#8, 0x79#8] =
    [0x48#8, 0x41#8, 0x53#8, 0x48#8, 0x2B#8, 0x41#8, 0x31#8, 0x34#8, 0x38#8, 0x31#8, 0x46#8, 0x30#8,
      0x37#8, 0x31#8, 0x44#8, 0x45#8, 0x33#8, 0x31#8, 0x31#8, 0x38#8, 0x45#8, 0x32#8, 0x43#8, 0x46#8,
      0x34#8, 0x31#8, 0x45#8, 0x31#8, 0x33#8, 0x45#8, 0x37#8, 0x37#8, 0x36#8, 0x42#8, 0x33#8, 0x30#8,
      0x35#8, 0x35#8, 0x31#8, 0x45#8, 0x31#8, 0x35#8, 0x34#8, 0x37#8, 0x39#8, 0x0A#8] := by decide

/-- R213: a full block is compressed and leaves the buffer; `init` has the constants of R218. -/
theorem test_digest_context :
    (digestInit (.blockHash .sha1)).hash = 0x67452301EFCDAB8998BADCFE10325476C3D2E1F0#160 ∧
      (digestUpdate (.blockHash .sha1) (digestInit (.blockHash .sha1)) (List.replicate 65 0#8)).block = [0#8] :=
  ⟨by decide, by decide +kernel⟩
/-- The message of A2 under SHA-1. -/
theorem test_sha1 :
    (blockDigest .sha1 ([0x1E#8, 0x2D#8, 0x3C#8, 0x4B#8, 0x5A#8, 0x69#8, 0x78#8, 0x87#8, 0x96#8, 0xB4#8] ++
      fillerFrom 10)).toList =
    [0xA1#8, 0x48#8, 0x1F#8, 0x07#8, 0x1D#8, 0xE3#8, 0x11#8, 0x8E#8, 0x2C#8, 0xF4#8, 0x1E#8, 0x13#8,
      0xE7#8, 0x76#8, 0xB3#8, 0x05#8, 0x51#8, 0xE1#8, 0x54#8, 0x79#8] := by decide +kernel

/-! ## Witnesses: states and operands that meet the hypotheses of each statement -/

theorem witness_DecodeOfEncode :
    (Instr.cmdRsvd 0x50#8).wellFormed = true ∧ (Instr.frmData 0x04#8).wellFormed = true ∧
      Instr.scTick2.wellFormed = true := by decide
theorem witness_EncodeOfDecode :
    decode (.evt 0x0201FFFF#32) = .ok (.suEdge true 0xFFFF#16) ∧ decode (.cmd 0x4F#8) = .ok .cmdO ∧
      decode (.frm 0x00#8) = .ok (.frmData 0#8) := by decide
/-- A word of a row; words of no row, with `op` 0x00, 0x09, 0x01 and 0x08. -/
theorem witness_StimulusWordDecodesByTable :
    decodeEvt32 0x0201FFFF#32 = .ok (.suEdge true 0xFFFF#16) ∧
      (∃ r ∈ evtRows, r.covers 0x04000000#32 = true) ∧
      ∀ w ∈ [0x00000000#32, 0x09000000#32, 0x01020000#32, 0x08000001#32], ∀ r ∈ evtRows,
        r.covers w = false :=
  ⟨by decide, ⟨⟨"TK.TICK", 0xFFFFFFFF#32, 0x04000000#32⟩, by simp [evtRows], by decide⟩,
    by simp [evtRows, EvtRow.covers]⟩
theorem witness_StepRunsDecodedOperation :
    ({ V with stim := [0x04000000#32] } : State).stim = [0x04000000#32] ∧
      decodeEvt32 0x04000000#32 = .ok .tkTick ∧ decodeEvt32 0x00000000#32 = .error .reservedOp ∧
      decodeEvt32 0x04000001#32 = .error .unusedOperandBits ∧ V.stim = [] := by decide
theorem witness_WgClkTakesOneBit :
    V.wgBit.val < 7 ∧ ({ V with wgBit := 6 } : State).wgBit.val < 7 := by decide
theorem witness_WgClkEighthBitAppends :
    let s : State := { V with wgBit := 7, cnt := 254 }
    Memory.wf .buf s.buf = true ∧ s.wgBit.val = 7 ∧ s.cnt.val < 255 := by decide
theorem witness_WgClkFullBufferDiscards :
    let s : State := { V with wgBit := 7, cnt := 255 }
    s.wgBit.val = 7 ∧ 255 ≤ s.cnt.val := by decide
theorem witness_EightEdgesCommitTheByte :
    let s : State := { V with cnt := 254 }
    Memory.wf .buf s.buf = true ∧ s.wgBit.val = 0 ∧ s.wgAcc = 0#8 ∧ s.cnt.val < 255 := by decide
theorem witness_OnlyWgClkMovesTheFraming :
    exec (.btRx 1#8) V = .next { V with rxq := [1#8], evf := 1#3 } ∧ ∀ d, Instr.btRx 1#8 ≠ .wgClk d :=
  ⟨rfl, by decide⟩
theorem witness_RisingEdgeIsNoStart :
    (0xFFFF#16).toNat < 2 ^ V.par.timerW ∧ V.suState = .awaitStart := by decide
theorem witness_FallingEdgeStartsAFrame :
    (65500#16).toNat < 2 ^ V.par.timerW ∧ V.suState = .awaitStart := by decide
/-- Seven data cells have elapsed at 800. -/
theorem witness_TransitionRecordsElapsedCells :
    let s := VS 2 2#8
    (800#16).toNat < 2 ^ s.par.timerW ∧ s.suState = .sampling ∧
      800 = ((((800#16).toNat : Int) - (s.suOrigin : Int)) % (2 ^ s.par.timerW : Int)).toNat ∧
      8 = (800 * 2 ^ s.par.suFrac + s.par.suPhaseQ) / s.par.suTbitQ ∧ 7 = min (8 - 1) 8 ∧
      max s.suBits.val 7 < 8 := by decide
/-- The eighth has at 900. -/
theorem witness_TransitionCompletesTheByte :
    let s := { VS 2 2#8 with fifo := List.replicate 15 0#8 }
    (900#16).toNat < 2 ^ s.par.timerW ∧ s.suState = .sampling ∧
      900 = ((((900#16).toNat : Int) - (s.suOrigin : Int)) % (2 ^ s.par.timerW : Int)).toNat ∧
      9 = (900 * 2 ^ s.par.suFrac + s.par.suPhaseQ) / s.par.suTbitQ ∧ 8 = min (9 - 1) 8 ∧
      max s.suBits.val 8 = 8 ∧ s.fifo.length < 16 := by decide
theorem witness_MatchCompletesTheByte :
    let s := { VS 2 2#8 with fifo := List.replicate 15 0#8 }
    s.suArmed = true ∧ s.fifo.length < 16 := by decide
theorem witness_SpuriousMatchOnlyWakes : V.suArmed = false := by decide
theorem witness_FullFifoDropsTheByte :
    let s := { VS 2 2#8 with fifo := sixteen }
    s.suArmed = true ∧ (900#16).toNat < 2 ^ s.par.timerW ∧ s.suState = .sampling ∧
      900 = ((((900#16).toNat : Int) - (s.suOrigin : Int)) % (2 ^ s.par.timerW : Int)).toNat ∧
      9 = (900 * 2 ^ s.par.suFrac + s.par.suPhaseQ) / s.par.suTbitQ ∧ 8 = min (9 - 1) 8 ∧
      max s.suBits.val 8 = 8 ∧ s.fifo.length = 16 := by decide
theorem witness_CellCountStartsAtZeroAndGrows : Params.vectorV.wf ∧ 299 ≤ 300 := by decide
theorem witness_TimerWrapIsHarmless :
    65500 < 2 ^ Params.vectorV.timerW ∧ 65535 < 2 ^ Params.vectorV.timerW := by decide
theorem witness_IdealSerialFrameDecodes :
    V.par.timerW = 16 ∧ V.par.suPhaseQ = 0 ∧ V.par.suTbitQ = 100 * 2 ^ V.par.suFrac ∧ 0 < 100 ∧
      9 * 100 < 2 ^ 16 ∧ 65535 < 2 ^ 16 ∧ V.suState = .awaitStart ∧ V.fifo.length < 16 := by decide
theorem witness_WideTimerCountIsRefused :
    let s : State := { V with par := { V.par with timerW := 10 } }
    2 ^ s.par.timerW ≤ (1024#16).toNat := by decide
/-- The last byte that is stored, the first that is not, and a byte outside a frame. -/
theorem witness_FrameDataIsCollected :
    let s : State := { V with frmColl := true, frmLen := 13 }
    (Memory.wf .frm s.frm = true ∧ s.frmColl = true ∧ s.frmLen.val < 14) ∧
      (Memory.wf .frm VG.frm = true ∧ VG.frmColl = true ∧ 14 ≤ VG.frmLen.val) ∧
      Memory.wf .frm V.frm = true ∧ V.frmColl = false := by decide
theorem witness_ValidFrameCommitsTenCharacters :
    Memory.wf .buf VG.buf = true ∧ VG.frmColl = true ∧ VG.frmLen.val = 14 ∧ VG.cnt.val = 0 ∧
      (∀ i, i < 12 → (hexval (Memory.read .frm VG.frm i)).isSome = true) ∧
      pairXor (Memory.bytes .frm VG.frm 0 12) = 0#8 ∧
      Memory.read .frm VG.frm 12 = 13#8 ∧ Memory.read .frm VG.frm 13 = 10#8 := by decide
/-- Each of the conditions violated (F9, F5, F13, F4, F3, F7). -/
theorem witness_InvalidFrameIsDiscarded :
    V.frmColl = false ∧ ({ VG with frmLen := 13 } : State).frmLen.val ≠ 14 ∧
      ({ VG with cnt := 1 } : State).cnt.val ≠ 0 ∧
      (∃ i, i < 12 ∧ hexval (Memory.read .frm (Memory.write .frm VG.frm 4 0x61#8) i) = none) ∧
      pairXor (Memory.bytes .frm (Memory.write .frm VG.frm 0 0x31#8) 0 12) ≠ 0#8 ∧
      Memory.read .frm (Memory.write .frm VG.frm 12 10#8) 12 ≠ 13#8 ∧
      Memory.read .frm (Memory.write .frm VG.frm 13 13#8) 13 ≠ 10#8 :=
  ⟨by decide, by decide, by decide, ⟨4, by decide⟩, by decide, by decide, by decide⟩
/-- Bit 0 of the eleventh character. -/
theorem witness_SingleBitFlipIsRejected :
    let s' : State := { VG with frm := Memory.write .frm VG.frm 11 0x34#8 }
    frameValid VG = true ∧ 11 < 12 ∧ 0 < 8 ∧
      (∀ i, i ≠ 11 → Memory.read .frm s'.frm i = Memory.read .frm VG.frm i) ∧
      Memory.read .frm s'.frm 11 = Memory.read .frm VG.frm 11 ^^^ (1#8 <<< 0) :=
  ⟨by decide, by decide, by decide,
    fun i hi => by rw [Memory.read_write (by decide), if_neg hi], by decide⟩
/-- A valid frame, and one of thirteen bytes. -/
theorem witness_WholeCardFrameIsAtomic :
    Memory.wf .buf V.buf = true ∧ Memory.wf .frm V.frm = true ∧ (∀ b ∈ frameG, b ∉ controlBytes) ∧
      cardFrameValid frameG = true ∧ V.cnt.val = 0 ∧ (∀ b ∈ frameG.tail, b ∉ controlBytes) ∧
      cardFrameValid frameG.tail = false := by decide
/-- An identifier of `CHIP_ID_MAX` bytes; none; a buffer of one byte; identifiers of 0 and of
`CHIP_ID_MAX + 1` bytes. -/
theorem witness_ChipPollCommitsIffEmpty :
    let s : State := { V with evf := 2#3, card := some (List.replicate 10 7#8) }
    s.sleep = false ∧ s.scPhase = .top ∧ flagSet .rx s = false ∧ s.fifo = [] ∧
      flagSet .appended s = false ∧ flagSet .tick s = true ∧ Memory.wf .buf s.buf = true ∧
      1 ≤ (List.replicate 10 7#8).length ∧ (List.replicate 10 7#8).length ≤ s.par.chipIdMax.toNat ∧
      s.cnt.val = 0 ∧ ({ s with card := none } : State).card = none ∧
      ({ s with cnt := 1 } : State).cnt.val ≠ 0 ∧ ([] : List Byte).length = 0 ∧
      s.par.chipIdMax.toNat < (List.replicate 11 7#8).length := by decide
/-- No sentinel, or an empty buffer; a sentinel with 9 bytes; a sentinel with 10 bytes. -/
theorem witness_SessionEndHasThreeOutcomes :
    let a := VB 9 1#8 10
    let b := VB 8 0xB4#8 9
    let c := VB 9 0xB4#8 10
    (a.sleep = false ∧ a.scPhase = .top ∧ flagSet .rx a = false ∧ a.fifo = [] ∧
      flagSet .appended a = true ∧ Memory.read .buf a.buf (a.cnt.val - 1) ≠ a.par.wgSentinel) ∧
      V.cnt.val = 0 ∧ flagSet .appended { V with evf := 4#3 } = true ∧
      (0 < b.cnt.val ∧ Memory.read .buf b.buf (b.cnt.val - 1) = b.par.wgSentinel ∧ b.cnt.val < 10) ∧
      Memory.read .buf c.buf (c.cnt.val - 1) = c.par.wgSentinel ∧ 10 ≤ c.cnt.val := by decide
/-- The shortest and the longest session. -/
theorem witness_WiegandSessionIsHashed :
    (∀ n ∈ [9, 254], 10 ≤ (List.replicate n 1#8 ++ [0xB4#8]).length ∧
      (List.replicate n 1#8 ++ [0xB4#8]).length ≤ 255 ∧
      (List.replicate n 1#8 ++ [0xB4#8]).getLast? = some V.par.wgSentinel) ∧
    V.cnt.val = 0 ∧ V.buf = [] ∧ V.wgBit.val = 0 ∧ V.wgAcc = 0#8 ∧ V.scPhase = .top ∧
      flagSet .rx V = false ∧ V.fifo = [] := by
  refine ⟨fun n hn => ?_, by decide⟩
  have h : 9 ≤ n ∧ n ≤ 254 := by simp at hn; omega
  rw [List.length_append, List.length_replicate, List.length_singleton, List.getLast?_concat]
  exact ⟨by omega, by omega, rfl⟩
theorem witness_IdleTimeoutFiresPastTheThreshold :
    let s : State := { V with scPhase := .tick2, secs := 21 }
    let u : State := { V with scPhase := .tick2, secs := 20 }
    (s.sleep = false ∧ s.scPhase = .tick2 ∧ 10 * s.par.tickHz < s.secs) ∧
      u.sleep = false ∧ u.scPhase = .tick2 ∧ u.secs ≤ 10 * u.par.tickHz := by decide
/-- At `TIMEOUT_TICKS`, one above it, and the largest count that does not wrap. -/
theorem witness_SilentBlockSendsAlive :
    Params.vectorV.wf ∧ Params.vectorV.timeoutTicks = 20 ∧ 0 < 20 ∧ 20 < 2 ^ Params.vectorV.secsW ∧
      0 < 21 ∧ 21 < 2 ^ Params.vectorV.secsW ∧ 65535 < 2 ^ Params.vectorV.secsW := by decide
/-- A state in which each branch is selected. -/
theorem witness_BranchSelectionFollowsTheTable :
    selectBranch { V with scPhase := .tick2, evf := 1#3 } = .tick2 ∧ selectBranch V = .idle ∧
      selectBranch { V with evf := 7#3, rxq := [1#8] } = .cmd ∧ selectBranch { V with evf := 7#3 } = .cmdclr ∧
      selectBranch { V with evf := 6#3, fifo := [1#8] } = .frame ∧
      selectBranch { V with evf := 6#3 } = .append ∧ selectBranch { V with evf := 2#3 } = .tick1 := by
  decide
theorem witness_CycleRunsTheSelectedBranch : V.sleep = false := by decide
theorem witness_CycleStopsWhereNotEnabled :
    ({ V with sleep := true } : State).sleep = true ∧ V.sleep = false ∧ selectBranch V ≠ .cmd := by decide
theorem witness_IdleSetsSleep : V.sleep = false ∧ V.scPhase = .top ∧ V.evf = 0#3 ∧ V.fifo = [] := by decide
theorem witness_CommandBranchExecutesOneByte :
    let s : State := { V with evf := 1#3, rxq := [0x4F#8, 0x4E#8] }
    s.sleep = false ∧ s.scPhase = .top ∧ flagSet .rx s = true ∧ s.rxq = 0x4F#8 :: [0x4E#8] := by decide
theorem witness_DrainedQueueClearsTheFlag :
    let s : State := { V with evf := 7#3 }
    s.sleep = false ∧ s.scPhase = .top ∧ flagSet .rx s = true ∧ s.rxq = [] := by decide
theorem witness_FrameBranchTakesOneByte :
    let s : State := { V with evf := 6#3, fifo := [0x02#8, 0x30#8] }
    s.sleep = false ∧ s.scPhase = .top ∧ flagSet .rx s = false ∧ s.fifo = 0x02#8 :: [0x30#8] := by decide
theorem witness_CommandPulsesUseTheNewMode :
    (Instr.cmdN, Action.night) ∈ [(Instr.cmdO, Action.opened), (.cmdD, .day), (.cmdN, .night),
      (.cmdR, .reject), (.cmdV, .validate)] ∧
      V.mode = V.act.foldl modeAfter V.par.modeReset ∧
      exec .cmdN V = .next { V with mode := .night, act := [.night] } :=
  ⟨by decide, by decide, rfl⟩
theorem witness_QueuedCommandsRunInOrder : V.scPhase = .top ∧ V.rxq = [] ∧ [0x4F#8] ≠ [] := by decide
theorem witness_CommandsComeFirst :
    let s : State := { V with evf := 7#3, fifo := [2#8] }
    s.scPhase = .top ∧ flagSet .rx s = true ∧
      exec .scCycle s = .next { s with evf := 6#3 } :=
  ⟨rfl, rfl, rfl⟩
theorem witness_CyclesReachIdle :
    ({ V with evf := 7#3, fifo := [2#8], rxq := [0x4F#8] } : State).sleep = false := by decide
theorem witness_TicksCoalesce : 0 < 1 := by decide
/-- Index 0, the last index of the table, and the first past it. -/
theorem witness_EnvironmentPlacesCards :
    V.cardTable[(1#8).toNat - 1]? = some [0x04#8, 0xA1#8, 0xB2#8, 0xC3#8] ∧ 1#8 ≠ 0#8 ∧ 2#8 ≠ 0#8 ∧
      V.cardTable.length < (2#8).toNat := by decide
theorem witness_RaceDecidedByOrder :
    let s : State := { V with evf := 2#3, wgBit := 7, wgAcc := 0x76#8, card := some (List.replicate 10 7#8) }
    s.sleep = false ∧ s.scPhase = .top ∧ s.evf = 2#3 ∧ s.fifo = [] ∧ s.buf = [] ∧ s.cnt.val = 0 ∧
      s.wgBit.val = 7 ∧ 0x77#8 = (if true then s.wgAcc ||| 1#8 else s.wgAcc) ∧
      0x77#8 ≠ s.par.wgSentinel ∧ s.card = some (List.replicate 10 7#8) ∧
      1 ≤ (List.replicate 10 7#8).length ∧ (List.replicate 10 7#8).length ≤ s.par.chipIdMax.toNat ∧
      (List.replicate 10 7#8).length < 255 := by decide
theorem witness_OperationsAreTotal :
    Instr.suEdge true 0xFFFF#16 ≠ .scCycle ∧
      (∀ b, Instr.suEdge true 0xFFFF#16 ≠ branchOperation b) ∧
      (0xFFFF#16).toNat < 2 ^ V.par.timerW :=
  ⟨by decide, fun b => by cases b <;> exact nofun, by decide⟩
theorem witness_HandlersWakeOnlyIdleSleeps :
    exec .btTxrdy { V with sleep := true } = .next V ∧ isHandler .btTxrdy = true ∧
      exec .scCycle V = .next { V with sleep := true } ∧ isHandler .scCycle = false :=
  ⟨rfl, rfl, rfl, rfl⟩
/-- A handler that writes neither the buffer, the FIFO nor the card; one that leaves `SECS`; ENV.CARD. -/
theorem witness_AccessMatrixHolds :
    (exec .tkTick V = .next { V with secs := 1, evf := 2#3 } ∧ isHandler .tkTick = true ∧
      isSoftUart .tkTick = false ∧ (∀ d, Instr.tkTick ≠ .wgClk d) ∧ (∀ b, Instr.tkTick ≠ .btRx b) ∧
      ∀ k, Instr.tkTick ≠ .envCard k) ∧
    (exec .btTxrdy V = .next V ∧ isHandler .btTxrdy = true ∧ Instr.btTxrdy ≠ .tkTick) ∧
    exec (.envCard 0#8) V = .next V :=
  ⟨⟨rfl, rfl, rfl, fun _ => nofun, fun _ => nofun, fun _ => nofun⟩, ⟨rfl, rfl, nofun⟩, rfl⟩
theorem witness_FaultIsStickyAndOnlyOverrun :
    let s := { VS 2 2#8 with fifo := sixteen }
    nextIs (exec (.suMatch true) s) (fun t => t.fault == 1#1) = true ∧ s.fault = 0#1 ∧
      exec .btTxrdy { V with fault := 1#1 } = .next { V with fault := 1#1 } :=
  ⟨by decide, rfl, rfl⟩
theorem witness_OutputsOnlyGrow : exec .cmdO V = .next { V with act := [.opened] } := by rfl

/-- A block buffer one byte short of a block. -/
theorem witness_DigestSplitsFreely :
    ({ hash := 0#160, block := List.replicate 63 0#8, length := 63 } : DigestContext).block.length < 64 := by
  decide

/-- The step that the witness of the invariant takes. -/
theorem witness_EveryStepKeepsTheInvariant_step :
    step { V with stim := [0x04000000#32] } = .next { V with secs := 1, evf := 2#3 } := by rfl
/-- The invariant holds of a state with a stimulus. -/
theorem witness_EveryStepKeepsTheInvariant : Inv { V with stim := [0x04000000#32] } where
  params := by decide
  bufForm := by decide
  frmForm := by decide
  filler := fun _ _ => rfl
  cntBound := by decide
  fifoBound := by decide
  secsRange := by decide
  originRange := by decide
  matchRange := by decide
  armed := by decide
  bitsSampling := by decide
  byteSampling := fun h => by cases h
  accClear := fun k _ => by simp [V, State.resetWith]
  frameIdle := by decide
  rxPending := fun h => absurd rfl h
  tickPending := by decide
  asleep := by decide
  modeOfActions := by decide
  txLines := ⟨[], rfl, fun _ h => by cases h⟩
theorem witness_ResetMeetsTheInvariant : Params.vectorV.wf := by decide

end Sys2Proof.Tests
end

section
/-!
SUPPORT. What each operation that is enabled in every state answers: one equation per operation, in the order
of `exec`. SU.EDGE, whose count may be too wide, has an equivalence instead.
-/
namespace Sys2Proof.Machine

variable (s : State)

/-! ## The handlers and the environment's operation -/

@[simp] theorem exec_wgClk (d : Bool) : exec (.wgClk d) s = .next (wgClock d (handlerEntry s)) := rfl

/-- SU.EDGE completes exactly when its count fits the timer (spec/30_encoding.md R91). -/
theorem exec_suEdge_next_iff (lv : Bool) (t : BitVec 16) (s' : State) :
    exec (.suEdge lv t) s = .next s' ↔
      t.toNat < 2 ^ s.par.timerW ∧ s' = suEdge lv t.toNat (handlerEntry s) := by
  change execSuEdge lv t s = .next s' ↔ _
  unfold execSuEdge
  by_cases h : t.toNat < 2 ^ s.par.timerW <;> simp [h, eq_comm]

@[simp] theorem exec_suMatch (lv : Bool) : exec (.suMatch lv) s = .next (suMatch lv (handlerEntry s)) := rfl
@[simp] theorem exec_tkTick : exec .tkTick s = .next (raiseFlag .tick (countTick (handlerEntry s))) := rfl
@[simp] theorem exec_btRx (b : Byte) :
    exec (.btRx b) s = .next (raiseFlag .rx (pushRx b (handlerEntry s))) := rfl
@[simp] theorem exec_btTxrdy : exec .btTxrdy s = .next (handlerEntry s) := rfl
@[simp] theorem exec_envCard (k : Byte) : exec (.envCard k) s = .next (placeCard k s) := rfl

/-! ## The host commands -/

@[simp] theorem exec_cmdO : exec .cmdO s = .next (cmdOpen s) := rfl
@[simp] theorem exec_cmdD : exec .cmdD s = .next (cmdDay s) := rfl
@[simp] theorem exec_cmdN : exec .cmdN s = .next (cmdNight s) := rfl
@[simp] theorem exec_cmdR : exec .cmdR s = .next (cmdReject s) := rfl
@[simp] theorem exec_cmdV : exec .cmdV s = .next (cmdValidate s) := rfl
@[simp] theorem exec_cmdRsvd (b : Byte) : exec (.cmdRsvd b) s = .next s := rfl

/-! ## The card-frame bytes -/

@[simp] theorem exec_frmStx : exec .frmStx s = .next (frameStart s) := rfl
@[simp] theorem exec_frmEtx : exec .frmEtx s = .next (frameEnd s) := rfl
@[simp] theorem exec_frmData (b : Byte) : exec (.frmData b) s = .next (frameData b s) := rfl

end Sys2Proof.Machine
end

section
/-! PROOFS. The family 00_scope.md: totality of the operations, and the cell count. -/
namespace Sys2Proof.Machine

/-! ## Every operation completes -/

/-- Settles O52: SC.CYCLE and the branches are excluded, SU.EDGE's count fits, and each other operation has an
equation for its next state. -/
theorem operationsAreTotal : Obligations.OperationsAreTotal := by
  intro i s notCycle notBranch fits
  cases i with
  | wgClk d => exact ⟨_, exec_wgClk s d⟩
  | suEdge lv t => exact ⟨_, (exec_suEdge_next_iff s lv t _).2 ⟨fits lv t rfl, rfl⟩⟩
  | suMatch lv => exact ⟨_, exec_suMatch s lv⟩
  | tkTick => exact ⟨_, exec_tkTick s⟩
  | btRx b => exact ⟨_, exec_btRx s b⟩
  | btTxrdy => exact ⟨_, exec_btTxrdy s⟩
  | envCard k => exact ⟨_, exec_envCard s k⟩
  | scCycle => exact absurd rfl notCycle
  | scTick2 => exact absurd rfl (notBranch .tick2)
  | scIdle => exact absurd rfl (notBranch .idle)
  | scCmd => exact absurd rfl (notBranch .cmd)
  | scCmdclr => exact absurd rfl (notBranch .cmdclr)
  | scFrame => exact absurd rfl (notBranch .frame)
  | scAppend => exact absurd rfl (notBranch .append)
  | scTick1 => exact absurd rfl (notBranch .tick1)
  | cmdO => exact ⟨_, exec_cmdO s⟩
  | cmdD => exact ⟨_, exec_cmdD s⟩
  | cmdN => exact ⟨_, exec_cmdN s⟩
  | cmdR => exact ⟨_, exec_cmdR s⟩
  | cmdV => exact ⟨_, exec_cmdV s⟩
  | cmdRsvd b => exact ⟨_, exec_cmdRsvd s b⟩
  | frmStx => exact ⟨_, exec_frmStx s⟩
  | frmEtx => exact ⟨_, exec_frmEtx s⟩
  | frmData b => exact ⟨_, exec_frmData s b⟩

/-! ## The cell count -/

/-- No cell has elapsed at the start edge: the sampling offset is below one cell (spec/00_scope.md R11). -/
theorem suCells_zero {p : Params} (h : p.suPhaseQ < p.suTbitQ) : suCells p 0 = 0 := by
  rw [suCells, Nat.zero_mul, Nat.zero_add]
  exact Nat.div_eq_of_lt h

/-- Scaling, adding the offset and dividing each keep the order (spec/41_softuart.md R149). -/
theorem suCells_monotone (p : Params) : Monotone (suCells p) := fun _ _ hle =>
  Nat.div_le_div_right (Nat.add_le_add_right (Nat.mul_le_mul_right _ hle) _)

/-- Settles O18. -/
theorem cellCountStartsAtZeroAndGrows : Obligations.CellCountStartsAtZeroAndGrows := by
  rintro p ⟨-, -, -, -, hphase, -, -⟩
  exact ⟨suCells_zero hphase, fun _ _ hle => suCells_monotone p hle⟩

end Sys2Proof.Machine
end

section
/-!
SUPPORT. `exec` inverted once: what an operation that completes has done, a handler, ENV.CARD or a piece of work
inside SC.CYCLE.
-/
namespace Sys2Proof.Machine

variable (s : State)

/-! ## Actions and their mode -/

/-- Perform an action together with the change of mode that comes with it (spec/44_scheduler.md R239). -/
def actOn (k : Action) (s : State) : State := perform k (setMode (modeAfter s.mode k) s)

/-- The five commands with their actions (spec/44_scheduler.md R240 to R244). -/
def commandActions : List (Instr × Action) :=
  [(.cmdO, .opened), (.cmdD, .day), (.cmdN, .night), (.cmdR, .reject), (.cmdV, .validate)]

theorem commandActions_cases {P : Instr → Action → Prop} (hO : P .cmdO .opened) (hD : P .cmdD .day)
    (hN : P .cmdN .night) (hR : P .cmdR .reject) (hV : P .cmdV .validate) {i : Instr} {k : Action}
    (h : (i, k) ∈ commandActions) : P i k := by
  simp only [commandActions, List.mem_cons, Prod.mk.injEq, List.not_mem_nil, or_false] at h
  obtain ⟨rfl, rfl⟩ | ⟨rfl, rfl⟩ | ⟨rfl, rfl⟩ | ⟨rfl, rfl⟩ | ⟨rfl, rfl⟩ := h
  · exact hO
  · exact hD
  · exact hN
  · exact hR
  · exact hV

theorem exec_command {i : Instr} {k : Action} (h : (i, k) ∈ commandActions) : exec i s = .next (actOn k s) :=
  commandActions_cases (P := fun i k => exec i s = .next (actOn k s)) rfl rfl rfl rfl rfl h

/-- A host byte performs one action, or nothing (spec/44_scheduler.md R239, R245). -/
theorem doCommand_eq_actOn (b : Byte) : (∃ k, doCommand b s = actOn k s) ∨ doCommand b s = s := by
  obtain ⟨-, e⟩ | ⟨-, e⟩ | ⟨-, e⟩ | ⟨-, e⟩ | ⟨-, e⟩ | ⟨-, e⟩ := doCommand_cases s b
  · exact .inl ⟨.opened, e⟩
  · exact .inl ⟨.day, e⟩
  · exact .inl ⟨.night, e⟩
  · exact .inl ⟨.reject, e⟩
  · exact .inl ⟨.validate, e⟩
  · exact .inr e

/-- A memory commit is a write of `BUF` and `CNT` and then the action BLINK3, which leaves the mode
(spec/42_assembler.md R182, R186). -/
theorem commitBytes_eq_actOn (bs : List Byte) (n : Fin 257) :
    commitBytes bs n s = actOn .blink3 { s with buf := Memory.writeFrom .buf s.buf 0 bs, cnt := n } := rfl

/-! ## Which operation did what -/

/-- Operation `i` is SC.CYCLE, a branch of it, or a command or frame byte inside one, and takes `s` to the last
argument. -/
inductive Work (s : State) : Instr → State → Prop where
  | cycle (awake : s.sleep = false) : Work s .scCycle (runBranch (selectBranch s) s)
  | branch (awake : s.sleep = false) : Work s (branchOperation (selectBranch s)) (runBranch (selectBranch s) s)
  | command {i : Instr} {k : Action} (h : (i, k) ∈ commandActions) : Work s i (actOn k s)
  | reserved (b : Byte) : Work s (.cmdRsvd b) s
  | frmStx : Work s .frmStx (frameStart s)
  | frmEtx : Work s .frmEtx (frameEnd s)
  | frmData (b : Byte) : Work s (.frmData b) (frameData b s)

/-- Operation `i` completes and takes `s` to the last argument. -/
inductive Completes (s : State) : Instr → State → Prop where
  | wgClk (d : Bool) : Completes s (.wgClk d) (wgClock d (handlerEntry s))
  | suEdge (lv : Bool) (t : BitVec 16) (fits : t.toNat < 2 ^ s.par.timerW) :
    Completes s (.suEdge lv t) (suEdge lv t.toNat (handlerEntry s))
  | suMatch (lv : Bool) : Completes s (.suMatch lv) (suMatch lv (handlerEntry s))
  | tkTick : Completes s .tkTick (raiseFlag .tick (countTick (handlerEntry s)))
  | btRx (b : Byte) : Completes s (.btRx b) (raiseFlag .rx (pushRx b (handlerEntry s)))
  | btTxrdy : Completes s .btTxrdy (handlerEntry s)
  | envCard (k : Byte) : Completes s (.envCard k) (placeCard k s)
  | work {i : Instr} {t : State} (w : Work s i t) : Completes s i t

/-- An operation that names a branch is a check that the branch is selected, and then its unit of work
(spec/30_encoding.md R95). -/
theorem exec_branchOperation (b : Branch) : exec (branchOperation b) s = takingBranch b (runBranch b) s := by
  cases b <;> rfl

theorem work_of_branch {b : Branch} {t : State} (h : exec (branchOperation b) s = .next t) :
    Work s (branchOperation b) t := by
  rw [exec_branchOperation] at h
  obtain ⟨awake, rfl, rfl⟩ := (takingBranch_next_iff s b (runBranch b) t).1 h
  exact .branch awake

theorem completes_of_exec {i : Instr} {t : State} (h : exec i s = .next t) : Completes s i t := by
  have command {j : Instr} {k : Action} (hj : (j, k) ∈ commandActions) (h : exec j s = .next t) :
      Completes s j t := by
    cases (exec_command s hj).symm.trans h
    exact .work (.command hj)
  cases i with
  | wgClk d => cases h; exact .wgClk d
  | suEdge lv n =>
    obtain ⟨fits, rfl⟩ := (exec_suEdge_next_iff s lv n t).1 h
    exact .suEdge lv n fits
  | suMatch lv => cases h; exact .suMatch lv
  | tkTick => cases h; exact .tkTick
  | btRx b => cases h; exact .btRx b
  | btTxrdy => cases h; exact .btTxrdy
  | envCard k => cases h; exact .envCard k
  | scCycle =>
    obtain ⟨awake, rfl⟩ := (execScCycle_next_iff s t).1 h
    exact .work (.cycle awake)
  | scTick2 => exact .work (work_of_branch s (b := .tick2) h)
  | scIdle => exact .work (work_of_branch s (b := .idle) h)
  | scCmd => exact .work (work_of_branch s (b := .cmd) h)
  | scCmdclr => exact .work (work_of_branch s (b := .cmdclr) h)
  | scFrame => exact .work (work_of_branch s (b := .frame) h)
  | scAppend => exact .work (work_of_branch s (b := .append) h)
  | scTick1 => exact .work (work_of_branch s (b := .tick1) h)
  | cmdO => exact command (k := .opened) (by simp [commandActions]) h
  | cmdD => exact command (k := .day) (by simp [commandActions]) h
  | cmdN => exact command (k := .night) (by simp [commandActions]) h
  | cmdR => exact command (k := .reject) (by simp [commandActions]) h
  | cmdV => exact command (k := .validate) (by simp [commandActions]) h
  | cmdRsvd b => cases h; exact .work (.reserved b)
  | frmStx => cases h; exact .work .frmStx
  | frmEtx => cases h; exact .work .frmEtx
  | frmData b => cases h; exact .work (.frmData b)

end Sys2Proof.Machine
end

section
/-!
SUPPORT. Frames: each unit's procedures are the state they are given but for the fields the unit writes.
-/
namespace Sys2Proof.Machine

variable (s : State)

/-! ## The handlers' updates and the environment's operation -/

@[simp] theorem flagSet_handlerEntry (f : EventFlag) : flagSet f (handlerEntry s) = flagSet f s := rfl
@[simp] theorem flagSet_countTick (f : EventFlag) : flagSet f (countTick s) = flagSet f s := rfl
@[simp] theorem flagSet_pushRx (b : Byte) (f : EventFlag) : flagSet f (pushRx b s) = flagSet f s := rfl

/-- ENV.CARD writes `CARD` and the count of free values alone (spec/44_scheduler.md R251). -/
theorem placeCard_frame (k : Byte) :
    placeCard k s = { s with card := (placeCard k s).card, drawn := (placeCard k s).drawn } := by
  unfold placeCard
  split
  all_goals rfl

/-! ## The assembler and the chip -/

/-- `csa_write` writes `BUF` and `CNT` alone (spec/42_assembler.md R171). -/
theorem csaWrite_frame (b : Byte) :
    csaWrite b s = { s with buf := (csaWrite b s).buf, cnt := (csaWrite b s).cnt } := by
  obtain ⟨_, e⟩ | ⟨_, e⟩ := csaWrite_cases s b
  all_goals rw [e]

theorem csaWrite_sleep (b : Byte) : (csaWrite b s).sleep = s.sleep := by rw [csaWrite_frame]

/-- A chip poll writes `BUF`, `CNT` and `ACT` alone (spec/42_assembler.md R186, R187). -/
theorem chipPoll_frame :
    chipPoll s = { s with buf := (chipPoll s).buf, cnt := (chipPoll s).cnt, act := (chipPoll s).act } := by
  obtain ⟨_, _, _, _, _, e⟩ | ⟨_, e⟩ := chipPoll_cases s
  all_goals rw [e]

/-! ## The Wiegand Decoder -/

/-- The eighth bit, as the updates of spec/40_wiegand.md R124 applied to the state it finds. -/
theorem wgClock_complete_eq (d : Bool) (h : ¬ s.wgBit.val + 1 < 8) :
    wgClock d s = wgRestart (raiseFlag .appended (clearSecs
      (csaWrite (if d then setBit s.wgAcc (7 - s.wgBit.val) else s.wgAcc) s))) := by
  rw [wgClock_complete s d h]
  obtain ⟨_, e⟩ | ⟨_, e⟩ := csaWrite_cases s (if d then setBit s.wgAcc (7 - s.wgBit.val) else s.wgAcc)
  all_goals rw [e]; rfl

/-- What WG.CLK leaves as it was (spec/10_state.md R48). -/
theorem wgClock_frame (d : Bool) :
    wgClock d s =
      { s with
        wgAcc := (wgClock d s).wgAcc, wgBit := (wgClock d s).wgBit, cnt := (wgClock d s).cnt
        secs := 0, buf := (wgClock d s).buf, evf := (wgClock d s).evf } := by
  by_cases more : s.wgBit.val + 1 < 8
  · rw [wgClock_partial s d more]
  · rw [wgClock_complete_eq s d more, csaWrite_frame]
    rfl

/-- WG.CLK raises no flag but `EVF.APPENDED`. -/
theorem flagSet_wgClock (d : Bool) {f : EventFlag} (hf : f ≠ .appended) :
    flagSet f (wgClock d s) = flagSet f s := by
  by_cases more : s.wgBit.val + 1 < 8
  · rw [wgClock_partial s d more]
    rfl
  · rw [wgClock_complete_eq s d more, csaWrite_frame]
    exact (flagSet_raiseFlag s .appended f).trans (by simp [hf.symm])

/-! ## The Software UART Decoder -/

/-- `t` is `s` but for what the Software UART Decoder writes (spec/10_state.md R48). -/
abbrev SoftUartOnly (s t : State) : Prop :=
  t = { s with
    secs := t.secs, suState := t.suState, suBits := t.suBits, suByte := t.suByte, suOrigin := t.suOrigin
    suArmed := t.suArmed, suMatch := t.suMatch, fault := t.fault, fifo := t.fifo }

theorem SoftUartOnly.trans {s t u : State} (hst : SoftUartOnly s t) (htu : SoftUartOnly t u) :
    SoftUartOnly s u := by
  unfold SoftUartOnly at htu
  rw [hst] at htu
  exact htu

theorem suFinish_only : SoftUartOnly s (suFinish s) := by
  obtain ⟨_, e⟩ | ⟨_, e⟩ := suFinish_cases s
  all_goals rw [e]

theorem suSample_only (lv : Bool) (t : Nat) : SoftUartOnly s (suSample lv t s) := by
  simp only [suSample]
  split
  · exact SoftUartOnly.trans rfl (suFinish_only _)
  · rfl

theorem suEdge_only (lv : Bool) (t : Nat) : SoftUartOnly s (suEdge lv t s) := by
  cases hst : s.suState with
  | awaitStart =>
    rw [suEdge_await s lv t hst]
    split
    all_goals rfl
  | sampling =>
    have sampled : SoftUartOnly s (suSample lv t (clearSecs s)) := SoftUartOnly.trans rfl (suSample_only _ lv t)
    rw [suEdge_sampling s lv t hst]
    split
    · exact sampled.trans rfl
    · exact sampled

theorem suMatch_only (lv : Bool) : SoftUartOnly s (suMatch lv s) := by
  unfold suMatch
  split
  · exact (SoftUartOnly.trans rfl (suFinish_only _)).trans rfl
  · rfl

/-! ## The scheduler -/

/-- `t` is `s` but for what the scheduler's work writes; SC.IDLE, which writes `SLEEP`, is apart
(spec/10_state.md R48). -/
abbrev WorkOnly (s t : State) : Prop :=
  t = { s with
    cnt := t.cnt, secs := t.secs, frmLen := t.frmLen, frmColl := t.frmColl, evf := t.evf, mode := t.mode
    scPhase := t.scPhase, buf := t.buf, frm := t.frm, fifo := t.fifo, rxq := t.rxq, tx := t.tx, act := t.act }

theorem WorkOnly.trans {s t u : State} (hst : WorkOnly s t) (htu : WorkOnly t u) : WorkOnly s u := by
  unfold WorkOnly at htu
  rw [hst] at htu
  exact htu

theorem doCommand_only (b : Byte) : WorkOnly s (doCommand b s) := by
  obtain ⟨k, e⟩ | e := doCommand_eq_actOn s b
  · rw [e]
    rfl
  · rw [e]

theorem frameData_only (b : Byte) : WorkOnly s (frameData b s) := by
  obtain ⟨_, _, e⟩ | ⟨_, _, e⟩ | ⟨_, e⟩ := frameData_cases s b
  all_goals rw [e]

theorem frameEnd_only : WorkOnly s (frameEnd s) := by
  obtain ⟨_, _, e⟩ | ⟨_, e⟩ := frameEnd_cases s
  all_goals rw [e]

theorem frameByte_only (b : Byte) : WorkOnly s (frameByte b s) := by
  obtain ⟨-, e⟩ | ⟨-, e⟩ | ⟨-, -, e⟩ := frameByte_cases s b
  · rw [e]
    rfl
  · rw [e]
    exact frameEnd_only s
  · rw [e]
    exact frameData_only s b

theorem sessionEndCheck_only : WorkOnly s (sessionEndCheck s) := by
  obtain ⟨_, e⟩ | ⟨_, _, e⟩ | ⟨_, _, e⟩ := sessionEndCheck_cases s
  · rw [e]
  · rw [e]
    rfl
  · rw [e]
    rfl

theorem idleTimeout_only : WorkOnly s (idleTimeout s) := by
  obtain ⟨_, e⟩ | ⟨_, e⟩ := idleTimeout_cases s
  all_goals rw [e]

theorem chipPoll_only : WorkOnly s (chipPoll s) := by
  rw [chipPoll_frame]

theorem branchCmd_only : WorkOnly s (branchCmd s) := by
  unfold branchCmd
  split
  · rfl
  · exact WorkOnly.trans rfl (doCommand_only _ _)

theorem branchFrame_only : WorkOnly s (branchFrame s) := by
  unfold branchFrame
  split
  · rfl
  · exact WorkOnly.trans rfl (frameByte_only _ _)

/-- Every branch but SC.IDLE leaves `SLEEP` and what the handlers own. -/
theorem runBranch_only {b : Branch} (hb : b ≠ .idle) : WorkOnly s (runBranch b s) := by
  cases b with
  | tick2 => exact (idleTimeout_only s).trans rfl
  | idle => exact absurd rfl hb
  | cmd => exact branchCmd_only s
  | cmdclr => rfl
  | frame => exact branchFrame_only s
  | append => exact (sessionEndCheck_only s).trans rfl
  | tick1 => exact (chipPoll_only s).trans rfl

theorem command_not_handler {i : Instr} {k : Action} (h : (i, k) ∈ commandActions) :
    isHandler i = false ∧ ∀ c, i ≠ .envCard c :=
  commandActions_cases (P := fun i _ => isHandler i = false ∧ ∀ c, i ≠ .envCard c)
    ⟨rfl, nofun⟩ ⟨rfl, nofun⟩ ⟨rfl, nofun⟩ ⟨rfl, nofun⟩ ⟨rfl, nofun⟩ h

/-- The scheduler's work is no handler and not the environment's. -/
theorem work_not_handler {t : State} {i : Instr} (w : Work s i t) :
    isHandler i = false ∧ ∀ c, i ≠ .envCard c := by
  cases w with
  | branch => cases selectBranch s <;> exact ⟨rfl, nofun⟩
  | command h => exact command_not_handler h
  | cycle => exact ⟨rfl, nofun⟩
  | reserved => exact ⟨rfl, nofun⟩
  | frmStx => exact ⟨rfl, nofun⟩
  | frmEtx => exact ⟨rfl, nofun⟩
  | frmData => exact ⟨rfl, nofun⟩

/-- The selected branch is SC.IDLE, or leaves `SLEEP` alone. -/
theorem runBranch_idle_or_only :
    (selectBranch s = .idle ∧ runBranch (selectBranch s) s = branchIdle s) ∨
      WorkOnly s (runBranch (selectBranch s) s) := by
  by_cases hb : selectBranch s = .idle
  · exact .inl ⟨hb, by rw [hb]; rfl⟩
  · exact .inr (runBranch_only s hb)

theorem work_idle_or_only {t : State} {i : Instr} (w : Work s i t) :
    (selectBranch s = .idle ∧ (i = .scIdle ∨ i = .scCycle) ∧ t = branchIdle s) ∨ WorkOnly s t := by
  cases w with
  | cycle =>
    obtain ⟨hb, e⟩ | only := runBranch_idle_or_only s
    · exact .inl ⟨hb, .inr rfl, e⟩
    · exact .inr only
  | branch =>
    obtain ⟨hb, e⟩ | only := runBranch_idle_or_only s
    · exact .inl ⟨hb, .inl (by rw [hb]; rfl), e⟩
    · exact .inr only
  | command => exact .inr rfl
  | reserved => exact .inr rfl
  | frmStx => exact .inr rfl
  | frmEtx => exact .inr (frameEnd_only s)
  | frmData b => exact .inr (frameData_only s b)

end Sys2Proof.Machine
end

section
/-!
SUPPORT. Each named update of the state keeps the invariant, under the condition its caller meets.
-/
namespace Sys2Proof.Machine

variable {s : State}

/-! ## The handlers' updates -/

theorem inv_withStim (h : Inv s) (ws : List EvtWord) : Inv { s with stim := ws } := { h with }

theorem inv_handlerEntry (h : Inv s) : Inv (handlerEntry s) := { h with asleep := nofun }

theorem inv_clearSecs (h : Inv s) : Inv (clearSecs s) := { h with secsRange := Nat.two_pow_pos _ }

theorem inv_countTick (h : Inv s) : Inv (countTick s) :=
  { h with secsRange := Nat.mod_lt _ (Nat.two_pow_pos _) }

/-- Raising a flag keeps the invariant while the scheduler is awake. -/
theorem inv_raiseFlag (h : Inv s) (awake : s.sleep = false) (f : EventFlag) : Inv (raiseFlag f s) :=
  { h with
    rxPending := fun hq => by simp [h.rxPending hq]
    tickPending := fun hp => by simp [h.tickPending hp]
    asleep := fun hs => absurd (awake.symm.trans hs) nofun }

/-- A byte is queued and `EVF.RX` raised as one (spec/44_scheduler.md R237). -/
theorem inv_receive (h : Inv s) (awake : s.sleep = false) (b : Byte) : Inv (raiseFlag .rx (pushRx b s)) :=
  { inv_raiseFlag h awake .rx with rxPending := fun _ => by simp }

theorem inv_placeCard (h : Inv s) (k : Byte) : Inv (placeCard k s) := by
  unfold placeCard
  split
  · exact { h with }
  · exact { h with }

/-! ## The buffer -/

theorem inv_csaReset (h : Inv s) : Inv (csaReset s) :=
  { h with
    bufForm := Memory.wf_nil .buf
    filler := fun i _ => read_csaReset s i
    cntBound := Nat.zero_le _ }

/-- A byte is written at `CNT`, and `CNT` is then above it (spec/42_assembler.md R171). -/
theorem inv_csaWrite (h : Inv s) (b : Byte) : Inv (csaWrite b s) := by
  obtain ⟨room, e⟩ | ⟨-, e⟩ := csaWrite_cases s b
  · rw [e]
    refine { h with bufForm := ?_, filler := fun i (hi : s.cnt.val + 1 ≤ i) => ?_, cntBound := room }
    · exact Memory.wf_write h.bufForm (Nat.lt_succ_of_lt room) b
    · rw [Memory.read_write h.bufForm, if_neg (by omega)]
      exact h.filler i (by omega)
  · rw [e]
    exact h

/-- Bytes written from index 0 of an empty buffer leave the filler above them (spec/10_state.md R33). -/
theorem inv_writeFrom (h : Inv s) (empty : s.cnt.val = 0) {bs : List Byte} {n : Fin 257}
    (hn : n.val = bs.length) (hle : bs.length ≤ 255) :
    Inv { s with buf := Memory.writeFrom .buf s.buf 0 bs, cnt := n } := by
  have fits : 0 + bs.length ≤ Space.size .buf := by simp only [Space.size, Config.bufCap]; omega
  refine { h with
    bufForm := Memory.wf_writeFrom bs h.bufForm fits
    filler := fun i (hi : n.val ≤ i) => ?_
    cntBound := hn ▸ hle }
  rw [Memory.read_writeFrom bs h.bufForm fits, if_neg (by omega)]
  exact h.filler i (by omega)

/-! ## Outputs -/

theorem inv_actOn (h : Inv s) (k : Action) : Inv (actOn k s) :=
  { h with
    modeOfActions := by
      change modeAfter s.mode k = (s.act ++ [k]).foldl modeAfter s.par.modeReset
      rw [List.foldl_append, ← h.modeOfActions]
      rfl }

theorem inv_commitBytes (h : Inv s) (empty : s.cnt.val = 0) {bs : List Byte} {n : Fin 257}
    (hn : n.val = bs.length) (hle : bs.length ≤ 255) : Inv (commitBytes bs n s) := by
  rw [commitBytes_eq_actOn]
  exact inv_actOn (inv_writeFrom h empty hn hle) .blink3

theorem inv_send (h : Inv s) {l : List Byte} (hl : outputLine s.par l) : Inv (send l s) := by
  obtain ⟨ls, htx, hls⟩ := h.txLines
  refine { h with txLines := ⟨ls ++ [l], by simp [htx], fun x hx => ?_⟩ }
  obtain hx | hx := List.mem_append.1 hx
  · exact hls x hx
  · rw [List.mem_singleton.1 hx]
    exact hl

theorem inv_doCommand (h : Inv s) (b : Byte) : Inv (doCommand b s) := by
  obtain ⟨k, e⟩ | e := doCommand_eq_actOn s b
  · rw [e]
    exact inv_actOn h k
  · rw [e]
    exact h

/-! ## Card frames -/

theorem inv_frameStart (h : Inv s) : Inv (frameStart s) := { h with frameIdle := nofun }

theorem inv_frameClose (h : Inv s) : Inv (frameClose s) := { h with frameIdle := fun _ => rfl }

theorem inv_frameData (h : Inv s) (b : Byte) : Inv (frameData b s) := by
  obtain ⟨room, hc, e⟩ | ⟨-, hc, e⟩ | ⟨-, e⟩ := frameData_cases s b
  · rw [e]
    exact { h with
      frmForm := Memory.wf_write h.frmForm room b
      frameIdle := fun hn => absurd (hc.symm.trans hn) nofun }
  · rw [e]
    exact { h with frameIdle := fun hn => absurd (hc.symm.trans hn) nofun }
  · rw [e]
    exact h

/-- A valid frame finds the buffer empty, so that its commit keeps the filler (spec/42_assembler.md R181). -/
theorem inv_frameEnd (h : Inv s) : Inv (frameEnd s) := by
  unfold frameEnd
  apply inv_frameClose
  split
  · next hv =>
    obtain ⟨-, hcnt, -⟩ := (frameValid_iff s).1 (Bool.and_eq_true_iff.1 hv).2
    have len : (frameId s).length = 10 := Memory.length_bytes ..
    exact inv_commitBytes h hcnt len.symm (by omega)
  · exact h

theorem inv_frameByte (h : Inv s) (b : Byte) : Inv (frameByte b s) := by
  obtain ⟨-, e⟩ | ⟨-, e⟩ | ⟨-, -, e⟩ := frameByte_cases s b
  · rw [e]
    exact inv_frameStart h
  · rw [e]
    exact inv_frameEnd h
  · rw [e]
    exact inv_frameData h b

/-! ## The Wiegand Decoder -/

theorem inv_wgRestart (h : Inv s) : Inv (wgRestart s) := { h with accClear := fun _ _ => BitVec.getLsbD_zero }

/-- The bit taken is above those still to come (spec/40_wiegand.md R123). -/
theorem getLsbD_bitTaken (h : Inv s) (d : Bool) {k : Nat} (hk : k + (s.wgBit.val + 1) < 8) :
    (if d then setBit s.wgAcc (7 - s.wgBit.val) else s.wgAcc).getLsbD k = false := by
  have hclear : s.wgAcc.getLsbD k = false := h.accClear k (by omega)
  cases d with
  | false => exact hclear
  | true =>
    rw [if_pos rfl, getLsbD_setBit s.wgAcc (by omega), hclear, Bool.false_or]
    exact decide_eq_false (by omega)

theorem inv_wgClock (h : Inv s) (awake : s.sleep = false) (d : Bool) : Inv (wgClock d s) := by
  by_cases more : s.wgBit.val + 1 < 8
  · rw [wgClock_partial s d more]
    exact { h with secsRange := Nat.two_pow_pos _, accClear := fun _ hk => getLsbD_bitTaken h d hk }
  · rw [wgClock_complete_eq s d more]
    have written := inv_clearSecs (inv_csaWrite h (if d then setBit s.wgAcc (7 - s.wgBit.val) else s.wgAcc))
    refine inv_wgRestart (inv_raiseFlag written ?_ .appended)
    rw [clearSecs_sleep, csaWrite_sleep, awake]

/-! ## The Software UART Decoder -/

/-- A completed frame is out of `SAMPLING`, and its byte is pushed only where there is room
(spec/41_softuart.md R147, R150, R151). -/
theorem inv_suFinish_suFill (h : Inv s) (awake : s.sleep = false) (v : Bool) (n : Nat) (hn : n ≤ 8) :
    Inv (suFinish (suFill v n hn s)) := by
  obtain ⟨room, e⟩ | ⟨-, e⟩ := suFinish_cases (suFill v n hn s)
  · rw [e]
    exact { h with
      fifoBound := by simpa using room
      armed := by simp
      bitsSampling := nofun
      byteSampling := nofun
      asleep := fun hs => absurd (awake.symm.trans hs) nofun }
  · rw [e]
    exact { h with armed := by simp, bitsSampling := nofun, byteSampling := nofun }

/-- Bits recorded short of the eighth leave those above them clear (spec/41_softuart.md R146). -/
theorem inv_suFill (h : Inv s) (v : Bool) (n : Nat) (hn : n ≤ 8) (short : (suFill v n hn s).suBits.val ≠ 8) :
    Inv (suFill v n hn s) := by
  refine { h with bitsSampling := fun _ => by omega, byteSampling := fun hp k hk => ?_ }
  change max s.suBits.val n ≤ k at hk
  change (recordBits v (n - s.suBits.val) s.suBits.val s.suByte).getLsbD k = false
  have bound : s.suBits.val < 8 := h.bitsSampling hp
  have clear : s.suByte.getLsbD k = false := h.byteSampling hp k (by omega)
  have above : ¬ (s.suBits.val ≤ k ∧ k < s.suBits.val + (n - s.suBits.val)) := by omega
  rw [getLsbD_recordBits v _ _ _ (by omega), clear, decide_eq_false above, Bool.and_false, Bool.or_false]

theorem inv_suSample (h : Inv s) (awake : s.sleep = false) (lv : Bool) (t : Nat) : Inv (suSample lv t s) := by
  simp only [suSample]
  split
  · exact inv_suFinish_suFill h awake lv _ _
  · next short => exact inv_suFill h lv _ _ short

/-- A start edge arms the countdown with nothing recorded (spec/41_softuart.md R143). -/
theorem inv_suStart (h : Inv s) {t : Nat} (fits : t < 2 ^ s.par.timerW) : Inv (suStart t s) :=
  { h with
    originRange := fits
    matchRange := Nat.mod_lt _ (Nat.two_pow_pos _)
    armed := by simp
    bitsSampling := fun _ => Nat.zero_lt_succ 7
    byteSampling := fun _ _ _ => BitVec.getLsbD_zero }

theorem inv_suEdge (h : Inv s) (awake : s.sleep = false) (lv : Bool) {t : Nat} (fits : t < 2 ^ s.par.timerW) :
    Inv (suEdge lv t s) := by
  have hc := inv_clearSecs h
  cases hst : s.suState with
  | awaitStart =>
    rw [suEdge_await s lv t hst]
    split
    · exact inv_suStart hc fits
    · exact hc
  | sampling =>
    have sampled := inv_suSample hc awake lv t
    rw [suEdge_sampling s lv t hst]
    split
    · exact inv_suStart sampled (congrArg State.par (suSample_only (clearSecs s) lv t) ▸ fits)
    · exact sampled

theorem inv_suMatch (h : Inv s) (awake : s.sleep = false) (lv : Bool) : Inv (suMatch lv s) := by
  unfold suMatch
  split
  · exact inv_clearSecs (inv_suFinish_suFill h awake _ _ _)
  · exact h

/-! ## The scheduler -/

theorem inv_sessionEndCheck (h : Inv s) : Inv (sessionEndCheck s) := by
  unfold sessionEndCheck
  split
  · apply inv_csaReset
    split
    · exact inv_send h (.inr ⟨bufMessage s, length_bufMessage s, rfl⟩)
    · exact h
  · exact h

theorem inv_idleTimeout (h : Inv s) : Inv (idleTimeout s) := by
  unfold idleTimeout
  split
  · exact inv_clearSecs (inv_csaReset (inv_send h (.inl rfl)))
  · exact h

/-- An identifier is committed into an empty buffer only (spec/42_assembler.md R185). -/
theorem inv_chipPoll (h : Inv s) : Inv (chipPoll s) := by
  obtain ⟨id, hle, -, -, empty, e⟩ | ⟨-, e⟩ := chipPoll_cases s
  · rw [e]
    exact inv_commitBytes h empty (bs := id) rfl hle
  · rw [e]
    exact h

/-- A flag may be cleared once nothing that it stands for is pending (spec/44_scheduler.md R233, R249). -/
theorem inv_clearFlag (h : Inv s) (f : EventFlag) (hrx : f = .rx → s.rxq = [])
    (htick : f = .tick → s.scPhase = .top) : Inv (clearFlag f s) :=
  { h with
    rxPending := fun hq => by
      have hf : f ≠ .rx := fun hf => hq (hrx hf)
      simpa [hf] using h.rxPending hq
    tickPending := fun hp => by
      have hf : f ≠ .tick := fun hf => absurd ((htick hf).symm.trans hp) nofun
      simpa [hf] using h.tickPending hp
    asleep := fun hs => by
      obtain ⟨hevf, hfifo, hphase⟩ := h.asleep hs
      exact ⟨by simp [hevf], hfifo, hphase⟩ }

/-- The tick is served: its phase ends and its flag is cleared (spec/44_scheduler.md R250). -/
theorem inv_branchTick2 (h : Inv s) : Inv (branchTick2 s) := by
  have timed := inv_idleTimeout h
  have ended : Inv (setPhase .top (idleTimeout s)) :=
    { timed with
      tickPending := nofun
      asleep := fun hs => by
        obtain ⟨hevf, hfifo, -⟩ := timed.asleep hs
        exact ⟨hevf, hfifo, rfl⟩ }
  exact inv_clearFlag ended .tick nofun fun _ => rfl

/-- The tick is polled, and stays pending through its second half (spec/44_scheduler.md R249). -/
theorem inv_branchTick1 (h : Inv s) (awake : s.sleep = false) (ticked : flagSet .tick s = true) :
    Inv (branchTick1 s) := by
  have polled := inv_chipPoll h
  unfold branchTick1
  rw [chipPoll_frame] at polled ⊢
  exact { polled with
    tickPending := fun _ => ticked
    asleep := fun hs => absurd (awake.symm.trans hs) nofun }

theorem inv_branchIdle (h : Inv s) (nothing : s.evf = 0#3 ∧ s.fifo = [] ∧ s.scPhase = .top) :
    Inv (branchIdle s) := { h with asleep := fun _ => nothing }

theorem inv_branchCmd (h : Inv s) : Inv (branchCmd s) := by
  unfold branchCmd
  split
  · exact h
  · next b bs hq =>
    have popped : Inv { s with rxq := bs } := { h with rxPending := fun _ => h.rxPending (by simp [hq]) }
    exact inv_doCommand popped b

theorem inv_branchFrame (h : Inv s) : Inv (branchFrame s) := by
  unfold branchFrame
  split
  · exact h
  · next b bs hq =>
    have bound : bs.length + 1 ≤ 16 := by simpa [hq] using h.fifoBound
    have popped : Inv { s with fifo := bs } :=
      { h with
        fifoBound := Nat.le_of_succ_le bound
        asleep := fun hs => by
          obtain ⟨-, empty, -⟩ := h.asleep hs
          exact absurd (empty.symm.trans hq) nofun }
    exact inv_frameByte popped b

theorem inv_branchAppend (h : Inv s) : Inv (branchAppend s) :=
  inv_clearFlag (inv_sessionEndCheck h) .appended nofun nofun

/-- The selected branch keeps the invariant: the rule that selects it is the condition it needs
(spec/44_scheduler.md R231, R233). -/
theorem inv_runBranch (h : Inv s) (awake : s.sleep = false) : Inv (runBranch (selectBranch s) s) := by
  obtain ⟨-, e⟩ | ⟨hphase, hevf, hfifo, e⟩ | ⟨-, -, -, e⟩ | ⟨-, -, hrxq, e⟩ | ⟨-, -, -, e⟩ | ⟨-, -, -, -, e⟩ |
    ⟨-, -, -, -, ticked, e⟩ := selectBranch_cases s
  · rw [e]; exact inv_branchTick2 h
  · rw [e]; exact inv_branchIdle h ⟨hevf, hfifo, hphase⟩
  · rw [e]; exact inv_branchCmd h
  · rw [e]; exact inv_clearFlag h .rx (fun _ => hrxq) nofun
  · rw [e]; exact inv_branchFrame h
  · rw [e]; exact inv_branchAppend h
  · rw [e]; exact inv_branchTick1 h awake ticked

end Sys2Proof.Machine
end

section
/-! PROOFS. The family 10_state.md: the invariant, the access matrix, and what each register records. -/
namespace Sys2Proof.Machine

/-! ## The invariant -/

theorem inv_work {s t : State} {i : Instr} (h : Inv s) (w : Work s i t) : Inv t := by
  cases w with
  | cycle awake => exact inv_runBranch h awake
  | branch awake => exact inv_runBranch h awake
  | command => exact inv_actOn h _
  | reserved => exact h
  | frmStx => exact inv_frameStart h
  | frmEtx => exact inv_frameEnd h
  | frmData b => exact inv_frameData h b

/-- Every operation keeps the invariant, those that no stimulus word decodes to included. -/
theorem inv_exec {s t : State} {i : Instr} (h : Inv s) (ht : exec i s = .next t) : Inv t := by
  have entered := inv_handlerEntry h
  cases completes_of_exec s ht with
  | wgClk d => exact inv_wgClock entered rfl d
  | suEdge lv n fits => exact inv_suEdge entered rfl lv fits
  | suMatch lv => exact inv_suMatch entered rfl lv
  | tkTick => exact inv_raiseFlag (inv_countTick entered) rfl .tick
  | btRx b => exact inv_receive entered rfl b
  | btTxrdy => exact entered
  | envCard k => exact inv_placeCard h k
  | work w => exact inv_work h w

/-- Settles O59: a step takes a stimulus word, which no field of the invariant reads, and executes what it
decodes to. -/
theorem everyStepKeepsTheInvariant : Obligations.EveryStepKeepsTheInvariant := by
  intro s t h ht
  obtain ⟨-, ws, i, -, -, hexec⟩ := step_next_cases s ht
  exact inv_exec (inv_withStim h ws) hexec

/-! ## The access matrix -/

/-- Settles O54: each operation's frame says which columns it may write, and the clauses for the others are
then equations of `s` with itself. -/
theorem accessMatrixHolds : Obligations.AccessMatrixHolds := by
  intro i s t ht
  cases completes_of_exec s ht with
  | wgClk d =>
    have hrx := flagSet_wgClock (handlerEntry s) d (f := .rx) nofun
    have htick := flagSet_wgClock (handlerEntry s) d (f := .tick) nofun
    rw [wgClock_frame] at hrx htick ⊢
    simpa [isHandler, isSoftUart, State.fifoCnt] using And.intro hrx htick
  | suEdge lv n =>
    rw [suEdge_only]
    simp [isHandler, isSoftUart, flagSet]
  | suMatch lv =>
    rw [suMatch_only]
    simp [isHandler, isSoftUart, flagSet]
  | tkTick => simp [isHandler, isSoftUart, State.fifoCnt]
  | btRx b => simp [isHandler, isSoftUart, State.fifoCnt]
  | btTxrdy => simp [isHandler, isSoftUart, State.fifoCnt]
  | envCard k =>
    rw [placeCard_frame]
    simp [isHandler, isSoftUart]
  | work w =>
    obtain ⟨hh, he⟩ := work_not_handler s w
    have notTransport : ¬ ((∃ b, i = .btRx b) ∨ i = .btTxrdy) := by
      rintro (⟨b, rfl⟩ | rfl)
      all_goals cases hh
    obtain ⟨-, -, rfl⟩ | only := work_idle_or_only s w
    · simp [hh, he]
    · rw [only]
      simp [hh, he, notTransport]

/-- Settles O10, the first row of the access matrix. -/
theorem onlyWgClkMovesTheFraming : Obligations.OnlyWgClkMovesTheFraming := by
  intro i s t ht notWgClk
  obtain ⟨framing, -⟩ := accessMatrixHolds i s t ht
  exact framing notWgClk

/-! ## `SLEEP` -/

/-- Settles O53: every handler begins with its entry and nothing after it writes `SLEEP`. -/
theorem handlersWakeOnlyIdleSleeps : Obligations.HandlersWakeOnlyIdleSleeps := by
  intro i s t ht
  cases completes_of_exec s ht with
  | wgClk d => exact ⟨fun _ => by rw [wgClock_frame]; rfl, nofun⟩
  | suEdge lv n => exact ⟨fun _ => by rw [suEdge_only]; rfl, nofun⟩
  | suMatch lv => exact ⟨fun _ => by rw [suMatch_only]; rfl, nofun⟩
  | tkTick => exact ⟨fun _ => rfl, nofun⟩
  | btRx b => exact ⟨fun _ => rfl, nofun⟩
  | btTxrdy => exact ⟨fun _ => rfl, nofun⟩
  | envCard k => exact ⟨nofun, fun _ => .inl (by rw [placeCard_frame])⟩
  | work w =>
    obtain ⟨hh, -⟩ := work_not_handler s w
    refine ⟨fun hi => absurd (hh.symm.trans hi) nofun, fun _ => ?_⟩
    obtain ⟨hb, hi, rfl⟩ | only := work_idle_or_only s w
    · exact .inr ⟨rfl, hb, hi⟩
    · exact .inl (by rw [only])

/-! ## `FAULT` -/

theorem mem_anomalyIf (c : Bool) (a b : Anomaly) : b ∈ anomalyIf c a ↔ c = true ∧ b = a := by
  cases c <;> simp [anomalyIf]

/-- What AN11 says of a byte that may be emitted (spec/60_exceptions.md R281). -/
theorem suOverrun_mem_overrunIf (c : Bool) (s : State) :
    .suOverrun ∈ overrunIf c s ↔ c = true ∧ 16 ≤ s.fifo.length := by
  simp [overrunIf, mem_anomalyIf]

theorem suOverrun_not_mem_branchAnomalies (b : Branch) (s : State) : .suOverrun ∉ branchAnomalies b s := by
  cases b with
  | tick2 => simp [branchAnomalies, mem_anomalyIf]
  | idle => simp [branchAnomalies]
  | cmd =>
    simp only [branchAnomalies]
    split <;> simp [commandAnomalies, mem_anomalyIf]
  | cmdclr => simp [branchAnomalies]
  | frame =>
    simp only [branchAnomalies]
    split
    · simp
    · simp only [frameAnomalies]
      split
      · simp [mem_anomalyIf]
      · split <;> simp [mem_anomalyIf]
      · simp [mem_anomalyIf]
  | append => simp [branchAnomalies, mem_anomalyIf]
  | tick1 =>
    simp only [branchAnomalies, pollAnomalies]
    split
    · simp
    · split <;> simp [mem_anomalyIf]

theorem anomalies_branchOperation (b : Branch) (s : State) :
    anomalies (branchOperation b) s = branchAnomalies b s := by
  cases b <;> rfl

/-- No command has an anomaly of its own. -/
theorem anomalies_command {i : Instr} {k : Action} (h : (i, k) ∈ commandActions) (s : State) :
    anomalies i s = [] :=
  commandActions_cases (P := fun i _ => anomalies i s = []) rfl rfl rfl rfl rfl h

theorem suOverrun_not_mem_anomalies_of_work {s t : State} {i : Instr} (w : Work s i t) :
    .suOverrun ∉ anomalies i s := by
  cases w with
  | cycle => exact suOverrun_not_mem_branchAnomalies _ s
  | branch => rw [anomalies_branchOperation]; exact suOverrun_not_mem_branchAnomalies _ s
  | command h => simp [anomalies_command h]
  | reserved b => simp [anomalies, commandAnomalies, mem_anomalyIf]
  | frmStx => simp [anomalies, mem_anomalyIf]
  | frmEtx =>
    simp only [anomalies]
    split <;> simp [mem_anomalyIf]
  | frmData b => simp [anomalies, mem_anomalyIf]

/-- `FAULT` after a byte that is emitted if `c` holds: the overrun bit is added at a full FIFO
(spec/41_softuart.md R151). -/
def faultAfter (c : Bool) (s : State) : BitVec 1 :=
  if c = true ∧ 16 ≤ s.fifo.length then s.fault ||| 1#1 else s.fault

theorem suFinish_fault (s : State) : (suFinish s).fault = faultAfter true s := by
  obtain ⟨hlen, e⟩ | ⟨hlen, e⟩ := suFinish_cases s
  · rw [e]
    exact (if_neg (by omega)).symm
  · rw [e]
    exact (if_pos ⟨rfl, hlen⟩).symm

theorem suSample_fault (lv : Bool) (t : Nat) (s : State) (sampling : s.suState = .sampling) :
    (suSample lv t s).fault = faultAfter (edgeCompletes t s) s := by
  have completes_iff : edgeCompletes t s = true ↔
      max s.suBits.val (dataCells (suCells s.par (elapsed s.par t s.suOrigin))) = 8 := by
    simp [edgeCompletes, sampling]
  simp only [suSample]
  split
  · next full =>
    rw [suFinish_fault, completes_iff.2 full]
    rfl
  · next short =>
    rw [Bool.eq_false_iff.2 fun completes => short (completes_iff.1 completes)]
    rfl

theorem suEdge_fault (lv : Bool) (t : Nat) (s : State) :
    (suEdge lv t s).fault = faultAfter (edgeCompletes t s) s := by
  cases hst : s.suState with
  | awaitStart =>
    have idle : edgeCompletes t s = false := by simp [edgeCompletes, hst]
    rw [suEdge_await s lv t hst, idle]
    split <;> rfl
  | sampling =>
    have sampled := suSample_fault lv t (clearSecs s) hst
    rw [suEdge_sampling s lv t hst]
    split
    · exact sampled
    · exact sampled

theorem suMatch_fault (lv : Bool) (s : State) : (suMatch lv s).fault = faultAfter s.suArmed s := by
  cases armed : s.suArmed with
  | false =>
    rw [suMatch_unarmed s lv armed]
    rfl
  | true =>
    rw [suMatch_armed s lv armed]
    exact suFinish_fault _

/-- `FAULT` after an operation, in the terms of its anomalies (spec/60_exceptions.md R281). -/
theorem fault_of_completes {s t : State} {i : Instr} (c : Completes s i t) :
    t.fault = if .suOverrun ∈ anomalies i s then s.fault ||| 1#1 else s.fault := by
  cases c with
  | wgClk d =>
    rw [wgClock_frame]
    simp [anomalies, mem_anomalyIf]
  | suEdge lv n =>
    simp only [anomalies, suOverrun_mem_overrunIf]
    exact suEdge_fault lv n.toNat (handlerEntry s)
  | suMatch lv =>
    have overrun : .suOverrun ∈ anomalies (.suMatch lv) s ↔ s.suArmed = true ∧ 16 ≤ s.fifo.length := by
      cases armed : s.suArmed <;> simp [anomalies, armed, suOverrun_mem_overrunIf]
    simp only [overrun]
    exact suMatch_fault lv (handlerEntry s)
  | tkTick => rfl
  | btRx b => rfl
  | btTxrdy => rfl
  | envCard k =>
    rw [placeCard_frame]
    rfl
  | work w =>
    rw [if_neg (suOverrun_not_mem_anomalies_of_work w)]
    obtain ⟨-, -, rfl⟩ | only := work_idle_or_only s w
    · rfl
    · rw [only]

/-- Settles O55. -/
theorem faultIsStickyAndOnlyOverrun : Obligations.FaultIsStickyAndOnlyOverrun := by
  intro i s t ht
  rw [fault_of_completes (completes_of_exec s ht)]
  by_cases overrun : .suOverrun ∈ anomalies i s
  · simp +contextual [overrun]
  · simp +contextual [overrun]

/-! ## Outputs -/

/-- At most one action is added to `ACT` (spec/10_state.md R42). -/
def ActsAtMostOnce (s t : State) : Prop := t.act = s.act ∨ ∃ k, t.act = s.act ++ [k]

/-- Nothing is sent, and at most one action performed. -/
def OnlyActs (s t : State) : Prop := t.tx = s.tx ∧ ActsAtMostOnce s t

theorem onlyActs_of_same {s t : State} (htx : t.tx = s.tx) (hact : t.act = s.act) : OnlyActs s t :=
  ⟨htx, .inl hact⟩

theorem onlyActs_actOn (k : Action) (s : State) : OnlyActs s (actOn k s) := ⟨rfl, .inr ⟨k, rfl⟩⟩

theorem onlyActs_doCommand (b : Byte) (s : State) : OnlyActs s (doCommand b s) := by
  obtain ⟨k, e⟩ | e := doCommand_eq_actOn s b
  · rw [e]; exact onlyActs_actOn k s
  · rw [e]; exact onlyActs_of_same rfl rfl

theorem onlyActs_frameData (b : Byte) (s : State) : OnlyActs s (frameData b s) := by
  obtain ⟨_, _, e⟩ | ⟨_, _, e⟩ | ⟨_, e⟩ := frameData_cases s b
  all_goals rw [e]; exact onlyActs_of_same rfl rfl

theorem onlyActs_frameEnd (s : State) : OnlyActs s (frameEnd s) := by
  obtain ⟨_, _, e⟩ | ⟨_, e⟩ := frameEnd_cases s
  · rw [e]; exact ⟨rfl, .inr ⟨.blink3, rfl⟩⟩
  · rw [e]; exact onlyActs_of_same rfl rfl

theorem onlyActs_frameByte (b : Byte) (s : State) : OnlyActs s (frameByte b s) := by
  obtain ⟨-, e⟩ | ⟨-, e⟩ | ⟨-, -, e⟩ := frameByte_cases s b
  · rw [e]; exact onlyActs_of_same rfl rfl
  · rw [e]; exact onlyActs_frameEnd s
  · rw [e]; exact onlyActs_frameData b s

theorem onlyActs_chipPoll (s : State) : OnlyActs s (chipPoll s) := by
  obtain ⟨_, _, _, _, _, e⟩ | ⟨_, e⟩ := chipPoll_cases s
  · rw [e]; exact ⟨rfl, .inr ⟨.blink3, rfl⟩⟩
  · rw [e]; exact onlyActs_of_same rfl rfl

/-- What an operation of anomalies `as` may have added to `TX` (spec/10_state.md R41). -/
def Sends (as : List Anomaly) (s t : State) : Prop :=
  t.tx = s.tx ∨ (t.tx = s.tx ++ aliveLine ∧ .idleTimeout ∈ as) ∨
    t.tx = s.tx ++ hashLine (digestFn s.par.digest (bufMessage s))

theorem outputs_of_onlyActs {as : List Anomaly} {s t : State} (h : OnlyActs s t) :
    Sends as s t ∧ ActsAtMostOnce s t :=
  ⟨.inl h.1, h.2⟩

/-- What a branch sends and performs: lines come from SC.TICK2 and SC.APPEND alone, and these perform
nothing. -/
theorem outputs_runBranch (b : Branch) (s : State) :
    Sends (branchAnomalies b s) s (runBranch b s) ∧ ActsAtMostOnce s (runBranch b s) := by
  cases b with
  | tick2 =>
    simp only [runBranch, branchTick2]
    obtain ⟨late, e⟩ | ⟨-, e⟩ := idleTimeout_cases s
    · rw [e]
      exact ⟨.inr (.inl ⟨rfl, (mem_anomalyIf _ _ _).2 ⟨decide_eq_true late, rfl⟩⟩), .inl rfl⟩
    · rw [e]
      exact outputs_of_onlyActs (onlyActs_of_same rfl rfl)
  | idle => exact outputs_of_onlyActs (onlyActs_of_same rfl rfl)
  | cmd =>
    apply outputs_of_onlyActs
    simp only [runBranch, branchCmd]
    split
    · exact onlyActs_of_same rfl rfl
    · exact onlyActs_doCommand _ { s with rxq := _ }
  | cmdclr => exact outputs_of_onlyActs (onlyActs_of_same rfl rfl)
  | frame =>
    apply outputs_of_onlyActs
    simp only [runBranch, branchFrame]
    split
    · exact onlyActs_of_same rfl rfl
    · exact onlyActs_frameByte _ { s with fifo := _ }
  | append =>
    simp only [runBranch, branchAppend]
    obtain ⟨-, e⟩ | ⟨-, -, e⟩ | ⟨-, -, e⟩ := sessionEndCheck_cases s
    · rw [e]
      exact outputs_of_onlyActs (onlyActs_of_same rfl rfl)
    · rw [e, dgHash_eq]
      exact ⟨.inr (.inr rfl), .inl rfl⟩
    · rw [e]
      exact outputs_of_onlyActs (onlyActs_of_same rfl rfl)
  | tick1 => exact outputs_of_onlyActs (onlyActs_chipPoll s)

theorem outputs_work {s t : State} {i : Instr} (w : Work s i t) :
    Sends (anomalies i s) s t ∧ ActsAtMostOnce s t := by
  cases w with
  | cycle => exact outputs_runBranch (selectBranch s) s
  | branch =>
    rw [anomalies_branchOperation]
    exact outputs_runBranch (selectBranch s) s
  | command => exact outputs_of_onlyActs (onlyActs_actOn _ s)
  | reserved => exact outputs_of_onlyActs (onlyActs_of_same rfl rfl)
  | frmStx => exact outputs_of_onlyActs (onlyActs_of_same rfl rfl)
  | frmEtx => exact outputs_of_onlyActs (onlyActs_frameEnd s)
  | frmData b => exact outputs_of_onlyActs (onlyActs_frameData b s)

/-- Settles O56: by the access matrix no handler writes `TX` or `ACT`. -/
theorem outputsOnlyGrow : Obligations.OutputsOnlyGrow := by
  intro i s t ht
  obtain ⟨-, -, -, -, -, -, -, -, -, handlerKeeps, -⟩ := accessMatrixHolds i s t ht
  have of_handler (hi : isHandler i = true) : Sends (anomalies i s) s t ∧ ActsAtMostOnce s t := by
    obtain ⟨-, -, htx, hact⟩ := handlerKeeps hi
    exact ⟨.inl htx, .inl hact⟩
  cases completes_of_exec s ht with
  | wgClk d => exact of_handler rfl
  | suEdge lv n => exact of_handler rfl
  | suMatch lv => exact of_handler rfl
  | tkTick => exact of_handler rfl
  | btRx b => exact of_handler rfl
  | btTxrdy => exact of_handler rfl
  | envCard k =>
    rw [placeCard_frame]
    exact outputs_of_onlyActs (onlyActs_of_same rfl rfl)
  | work w => exact outputs_work w

/-! ## Output pulses -/

/-- The pulses of one more action are its pattern in the mode that all the actions lead to. -/
theorem pulses_concat (k : Action) : ∀ (ks : List Action) (m : Mode),
    pulses m (ks ++ [k]) = pulses m ks ++ Config.pattern k (modeAfter (ks.foldl modeAfter m) k)
  | [], m => by simp [pulses]
  | j :: ks, m => by
    rw [List.cons_append, pulses, pulses_concat k ks, pulses, List.append_assoc, List.foldl_cons]

/-- Settles O42: a command sets the mode that its action leads to. -/
theorem commandPulsesUseTheNewMode : Obligations.CommandPulsesUseTheNewMode := by
  intro i k s t hik hmode ht
  cases (exec_command s hik).symm.trans ht
  change pulses s.par.modeReset (s.act ++ [k]) = s.pulses ++ Config.pattern k (modeAfter s.mode k)
  rw [pulses_concat, hmode]
  rfl

/-! ## The buffer reset -/

/-- Settles O30. -/
theorem bufferResetRestoresTheFiller : Obligations.BufferResetRestoresTheFiller :=
  fun s => ⟨rfl, fun i _ => read_csaReset s i⟩

end Sys2Proof.Machine
end

section
/-! SUPPORT. Runs: how `runOps` composes (spec/00_scope.md R15). -/
namespace Sys2Proof.Machine

@[simp] theorem runOps_nil (s : State) : runOps [] s = .next s := rfl

theorem runOps_cons_of_next {i : Instr} {s t : State} (h : exec i s = .next t) (is : List Instr) :
    runOps (i :: is) s = runOps is t := by
  simp only [runOps, h]

/-- A run that completes goes on from its last state. -/
theorem runOps_append_of_next {ys : List Instr} {t : State} :
    ∀ {xs : List Instr} {s : State}, runOps xs s = .next t → runOps (xs ++ ys) s = runOps ys t
  | [], s, h => by
    cases h
    rfl
  | i :: is, s, h => by
    cases hi : exec i s with
    | next u =>
      rw [runOps_cons_of_next hi] at h
      rw [List.cons_append, runOps_cons_of_next hi, runOps_append_of_next h]
    | fault r => simp only [runOps, hi, reduceCtorEq] at h
    | refused r => simp only [runOps, hi, reduceCtorEq] at h

end Sys2Proof.Machine
end

section
/-! PROOFS. The family 20_memory.md, ticks: pending ticks coalesce, and `SECS` counts each of them. -/
namespace Sys2Proof.Machine

theorem exec_tkTick_eq (s : State) :
    exec .tkTick s =
      .next { s with sleep := false, secs := (s.secs + 1) % 2 ^ s.par.secsW, evf := s.evf ||| 2#3 } := rfl

theorem ticks_succ (n : Nat) : ticks (n + 1) = .tkTick :: ticks n := rfl

/-- Settles O47, by induction on the number of ticks from the first on: a tick raises a flag that is already
set (spec/20_memory.md R78), and the counts add up modulo `2^SECS_W`. -/
theorem ticksCoalesce : Obligations.TicksCoalesce := by
  intro n s hn
  induction n, hn using Nat.le_induction generalizing s with
  | base => exact runOps_cons_of_next (exec_tkTick_eq s) []
  | succ n _ ih =>
    have counts : ((s.secs + 1) % 2 ^ s.par.secsW + n) % 2 ^ s.par.secsW =
        (s.secs + (n + 1)) % 2 ^ s.par.secsW := by
      rw [Nat.mod_add_mod, Nat.add_assoc, Nat.add_comm 1 n]
    rw [ticks_succ, runOps_cons_of_next (exec_tkTick_eq s), ih]
    simp only [counts, BitVec.or_assoc, BitVec.or_self]

end Sys2Proof.Machine
end

section
/-!
PROOFS. The family 20_memory.md, one byte on the Wiegand line: eight clock edges place its bits, most significant
first, and the eighth commits it.
-/
namespace Sys2Proof.Machine

/-! ## The bits placed so far -/

/-- The `k` most significant bits of a byte in their places, the others 0: `WG_ACC` after `k` edges
(spec/40_wiegand.md R123). -/
def highBits (b : Byte) (k : Nat) : Byte := b >>> (8 - k) <<< (8 - k)

theorem getLsbD_highBits (b : Byte) (k j : Nat) :
    (highBits b k).getLsbD j = (b.getLsbD j && decide (8 ≤ j + k)) := by
  simp only [highBits, BitVec.getLsbD_shiftLeft, BitVec.getLsbD_ushiftRight]
  by_cases inside : j < 8
  · by_cases placed : 8 ≤ j + k
    · have same : 8 - k + (j - (8 - k)) = j := by omega
      have above : ¬ j < 8 - k := by omega
      simp [inside, placed, same, above]
    · have below : j < 8 - k := by omega
      simp [placed, below]
  · simp [inside, BitVec.getLsbD_of_ge b j (Nat.le_of_not_lt inside)]

theorem highBits_zero (b : Byte) : highBits b 0 = 0#8 :=
  BitVec.eq_of_getLsbD_eq fun j hj => by simp [getLsbD_highBits, Nat.not_le_of_lt hj]

theorem highBits_eight (b : Byte) : highBits b 8 = b := by simp [highBits]

/-- A level taken in position `k` (spec/40_wiegand.md R123). -/
theorem getLsbD_levelTaken (d : Bool) (acc : Byte) {k : Nat} (hk : k < 8) (j : Nat) :
    (if d then setBit acc k else acc).getLsbD j = (acc.getLsbD j || (d && decide (j = k))) := by
  cases d with
  | false => rw [if_neg Bool.false_ne_true, Bool.false_and, Bool.or_false]
  | true => rw [if_pos rfl, getLsbD_setBit acc hk, Bool.true_and]

/-- One more edge places one more bit (spec/40_wiegand.md R123). -/
theorem highBits_succ (b : Byte) {k : Nat} (hk : k < 8) :
    (if b.getLsbD (7 - k) then setBit (highBits b k) (7 - k) else highBits b k) = highBits b (k + 1) := by
  refine BitVec.eq_of_getLsbD_eq fun j _ => ?_
  have placed : (8 ≤ j + (k + 1)) ↔ (8 ≤ j + k ∨ j = 7 - k) := by omega
  rw [getLsbD_levelTaken _ _ (by omega), getLsbD_highBits, getLsbD_highBits]
  by_cases here : j = 7 - k
  · rw [decide_eq_true (placed.2 (.inr here)), ← here]
    cases b.getLsbD j <;> simp
  · simp [placed, here]

/-! ## The byte committed -/

/-- The state after byte `b` has come in on the Wiegand line: the entry of a handler, and the updates of
spec/40_wiegand.md R124. -/
def byteTaken (b : Byte) (s : State) : State :=
  wgRestart (raiseFlag .appended (clearSecs (csaWrite b (handlerEntry s))))

/-- A byte with room for it (spec/42_assembler.md R171). -/
theorem byteTaken_of_room (b : Byte) {s : State} (room : s.cnt.val < 255) :
    byteTaken b s =
      { s with
        sleep := false, secs := 0, wgAcc := 0#8, wgBit := 0, evf := s.evf ||| 4#3
        buf := Memory.write .buf s.buf s.cnt.val b, cnt := ⟨s.cnt.val + 1, by omega⟩ } := by
  obtain ⟨_, e⟩ | ⟨full, _⟩ := csaWrite_cases (handlerEntry s) b
  · rw [byteTaken, e]
    rfl
  · exact absurd room (Nat.not_lt_of_le full)

/-- A byte with no room for it is discarded (spec/40_wiegand.md R125). -/
theorem byteTaken_of_full (b : Byte) {s : State} (full : 255 ≤ s.cnt.val) :
    byteTaken b s =
      { s with sleep := false, secs := 0, wgAcc := 0#8, wgBit := 0, evf := s.evf ||| 4#3 } := by
  obtain ⟨room, _⟩ | ⟨_, e⟩ := csaWrite_cases (handlerEntry s) b
  · exact absurd room (Nat.not_lt_of_le full)
  · rw [byteTaken, e]
    rfl

/-- Nothing that the edges before the eighth write outlives the eighth. -/
theorem byteTaken_of_partial (b acc : Byte) (k : Fin 8) (s : State) :
    byteTaken b { handlerEntry s with secs := 0, wgAcc := acc, wgBit := k } = byteTaken b s := by
  obtain room | full := Nat.lt_or_ge s.cnt.val 255
  · exact Eq.trans (byteTaken_of_room b (by exact room)) (byteTaken_of_room b room).symm
  · exact Eq.trans (byteTaken_of_full b (by exact full)) (byteTaken_of_full b full).symm

/-! ## The edges -/

/-- `k` bits of `b` have come in (spec/40_wiegand.md R123). -/
def BitsPlaced (b : Byte) (k : Nat) (s : State) : Prop := s.wgBit.val = k ∧ s.wgAcc = highBits b k

/-- The edge whose level is the `k`-th bit of `b`, the most significant first (spec/30_encoding.md R108). -/
def bitEdge (b : Byte) (k : Nat) : Instr := .wgClk (b.getLsbD (7 - k))

/-- An edge before the eighth places its bit, and the byte that is to come does not notice it. -/
theorem exec_bitEdge_places {b : Byte} {k : Nat} {s : State} (hk : k < 7) (h : BitsPlaced b k s) :
    ∃ u, exec (bitEdge b k) s = .next u ∧ BitsPlaced b (k + 1) u ∧ byteTaken b u = byteTaken b s := by
  obtain ⟨hbit, hacc⟩ := h
  have more : (handlerEntry s).wgBit.val + 1 < 8 := by rw [handlerEntry_wgBit]; omega
  refine ⟨_, congrArg Host.Outcome.next (wgClock_partial (handlerEntry s) _ more), ⟨congrArg (· + 1) hbit, ?_⟩,
    byteTaken_of_partial b _ _ s⟩
  simp only [handlerEntry_wgAcc, handlerEntry_wgBit, hbit, hacc]
  exact highBits_succ b (by omega)

/-- The eighth edge commits the byte. -/
theorem exec_bitEdge_commits {b : Byte} {s : State} (h : BitsPlaced b 7 s) :
    exec (bitEdge b 7) s = .next (byteTaken b s) := by
  obtain ⟨hbit, hacc⟩ := h
  have last : ¬ (handlerEntry s).wgBit.val + 1 < 8 := by rw [handlerEntry_wgBit]; omega
  rw [bitEdge, exec_wgClk, wgClock_complete_eq (handlerEntry s) _ last, handlerEntry_wgAcc, handlerEntry_wgBit,
    hbit, hacc, highBits_succ b (by decide), highBits_eight]
  rfl

/-- The edges still to come, once `k` bits of `b` are in their places, commit `b`. -/
theorem runOps_bitEdges (b : Byte) : ∀ (n k : Nat) (s : State), k + n = 7 → BitsPlaced b k s →
    runOps ((List.range' k (n + 1)).map (bitEdge b)) s = .next (byteTaken b s)
  | 0, k, s, hk, h => by
    obtain rfl : k = 7 := hk
    exact runOps_cons_of_next (exec_bitEdge_commits h) []
  | n + 1, k, s, hk, h => by
    obtain ⟨u, hu, placed, same⟩ := exec_bitEdge_places (by omega) h
    rw [List.range'_succ, List.map_cons, runOps_cons_of_next hu,
      runOps_bitEdges b n (k + 1) u (by omega) placed, same]

theorem wgByte_eq_map (b : Byte) : wgByte b = (List.range' 0 8).map (bitEdge b) := rfl

theorem runOps_wgByte (b : Byte) {s : State} (hbit : s.wgBit.val = 0) (hacc : s.wgAcc = 0#8) :
    runOps (wgByte b) s = .next (byteTaken b s) := by
  rw [wgByte_eq_map]
  exact runOps_bitEdges b 7 0 s rfl ⟨hbit, hacc.trans (highBits_zero b).symm⟩

/-- Settles O9: the eight edges are one committed byte. -/
theorem eightEdgesCommitTheByte : Obligations.EightEdgesCommitTheByte := by
  intro b s hwf hbit hacc room
  refine ⟨byteTaken b s, runOps_wgByte b hbit hacc, ?_⟩
  rw [byteTaken_of_room b room]
  refine ⟨?_, rfl, Memory.read_write hwf s.cnt.val b⟩
  have bit_eq : s.wgBit = 0 := Fin.ext hbit
  rw [← hacc, ← bit_eq]

end Sys2Proof.Machine
end

section
/-!
PROOFS. The family 20_memory.md, a whole Wiegand session: the bytes of `B` go to ascending indices of the buffer,
the filler stays behind them, and SC.APPEND sends the digest of the 256 bytes.
-/
namespace Sys2Proof.Machine

/-! ## The bytes of a session -/

/-- The state after the bytes of `B`, in order, have come in on the Wiegand line. -/
def bytesTaken (B : List Byte) (s : State) : State := B.foldl (fun t b => byteTaken b t) s

theorem runOps_wgBytes : ∀ (B : List Byte) {s : State}, s.wgBit.val = 0 → s.wgAcc = 0#8 →
    runOps (wgBytes B) s = .next (bytesTaken B s)
  | [], _, _, _ => rfl
  | b :: B, _, hbit, hacc =>
    -- the framing has restarted behind each byte
    (runOps_append_of_next (runOps_wgByte b hbit hacc)).trans (runOps_wgBytes B rfl rfl)

/-- A session with room for it fills ascending indices of the buffer (spec/20_memory.md R65). -/
theorem bytesTaken_eq : ∀ {B : List Byte} {s : State}, B ≠ [] → (room : s.cnt.val + B.length ≤ 255) →
    bytesTaken B s =
      { s with
        sleep := false, secs := 0, wgAcc := 0#8, wgBit := 0, evf := s.evf ||| 4#3
        buf := Memory.writeFrom .buf s.buf s.cnt.val B, cnt := ⟨s.cnt.val + B.length, by omega⟩ }
  | [b], s, _, room => byteTaken_of_room b room
  | b :: c :: B, s, _, room => by
    simp only [List.length_cons] at room
    have first := byteTaken_of_room b (s := s) (by omega)
    have rest := bytesTaken_eq (B := c :: B) (s := byteTaken b s) (List.cons_ne_nil c B)
      (by rw [first]; simp only [List.length_cons]; omega)
    have counts : s.cnt.val + 1 + (B.length + 1) = s.cnt.val + (B.length + 1 + 1) := by omega
    refine rest.trans ?_
    simp only [first, List.length_cons, counts, BitVec.or_assoc, BitVec.or_self, Memory.writeFrom]

/-! ## The message that is digested -/

theorem read_writeFrom_filler {B : List Byte} (hB : B.length ≤ 256) (i : Nat) :
    Memory.read .buf (Memory.writeFrom .buf [] 0 B) i =
      if i < B.length then B.getD i 0#8 else BitVec.ofNat 8 i := by
  have fits : 0 + B.length ≤ Space.size .buf := by simpa [Space.size] using hB
  simpa [Memory.read, Memory.unlisted] using Memory.read_writeFrom B (Memory.wf_nil .buf) fits i

/-- The 256 bytes of the buffer are the session's and then the filler (spec/43_digest.md R217). -/
theorem bytes_writeFrom_filler {B : List Byte} (hB : B.length ≤ 256) :
    Memory.bytes .buf (Memory.writeFrom .buf [] 0 B) 0 256 = B ++ fillerFrom B.length := by
  refine List.ext_getElem (by simp [fillerFrom, hB]) fun i _ _ => ?_
  rw [List.getElem_append]
  by_cases inB : i < B.length
  · simp [Memory.bytes, read_writeFrom_filler hB, inB]
  · simp [Memory.bytes, read_writeFrom_filler hB, inB, fillerFrom, Nat.add_sub_cancel' (Nat.le_of_not_lt inB)]

theorem getD_last {B : List Byte} {b : Byte} (h : B.getLast? = some b) : B.getD (B.length - 1) 0#8 = b := by
  rw [List.getLast?_eq_getElem?] at h
  rw [List.getD_eq_getElem?_getD, h, Option.getD_some]

/-! ## The session's end -/

/-- SC.APPEND where the rules select it (spec/44_scheduler.md R248). -/
theorem exec_scAppend_of_selected {s : State} (awake : s.sleep = false) (hphase : s.scPhase = .top)
    (hrx : flagSet .rx s = false) (hfifo : s.fifo = []) (happ : flagSet .appended s = true) :
    exec .scAppend s = .next (branchAppend s) := by
  have selected : selectBranch s = .append := by
    have pending : ¬ s.evf = 0#3 := fun zero => by simp [((evf_eq_zero_iff s).1 zero).2.2] at happ
    simp [selectBranch, State.fifoCnt, hphase, hrx, hfifo, happ, pending]
  exact (takingBranch_next_iff s .append branchAppend _).2 ⟨awake, selected, rfl⟩

/-- `csa_reset` and the hash line, for a session long enough to be hashed (spec/42_assembler.md R189). -/
theorem branchAppend_hashed {s : State} (hlen : 10 ≤ s.cnt.val)
    (hlast : Memory.read .buf s.buf (s.cnt.val - 1) = s.par.wgSentinel) :
    branchAppend s =
      { s with
        evf := s.evf &&& 3#3, buf := [], cnt := 0
        tx := s.tx ++ hashLine (digestFn s.par.digest (bufMessage s)) } := by
  have ends : sentinelLast s = true := (sentinelLast_iff s).2 ⟨by omega, hlast⟩
  obtain ⟨no, -⟩ | ⟨-, -, e⟩ | ⟨-, short, -⟩ := sessionEndCheck_cases s
  · simp [no] at ends
  · rw [branchAppend, e, dgHash_eq]
    rfl
  · omega

theorem clear_appended_raised : ∀ e : BitVec 3, (e ||| 4#3) &&& 3#3 = e &&& 3#3 := by decide

/-- Settles O31: the bytes of the session, and then SC.APPEND, which finds the sentinel last. -/
theorem wiegandSessionIsHashed : Obligations.WiegandSessionIsHashed := by
  intro B s hmin hmax hlast hcnt hbuf hbit hacc hphase hrx hfifo
  have sent := bytesTaken_eq (s := s) (List.ne_nil_of_length_pos (by omega)) (by omega : _ + B.length ≤ 255)
  simp only [hcnt, hbuf, Nat.zero_add] at sent
  rw [runOps_append_of_next (runOps_wgBytes B hbit hacc)]
  generalize bytesTaken B s = t at sent ⊢
  have cnt : t.cnt.val = B.length := by rw [sent]
  have buf : t.buf = Memory.writeFrom .buf [] 0 B := by rw [sent]
  have message : bufMessage t = B ++ fillerFrom B.length := by
    rw [bufMessage, buf, bytes_writeFrom_filler (by omega)]
  have sentinel : Memory.read .buf t.buf (t.cnt.val - 1) = t.par.wgSentinel := by
    rw [buf, cnt, read_writeFrom_filler (by omega), if_pos (by omega), getD_last hlast, sent]
  have flags : flagSet .appended t = true ∧ flagSet .rx t = false := by
    rw [sent]
    simpa [flagSet, flagBit] using hrx
  have appended : exec .scAppend t = .next (branchAppend t) :=
    exec_scAppend_of_selected (by rw [sent]) (by rw [sent, hphase]) flags.2 (by rw [sent, hfifo]) flags.1
  have cnt_eq : s.cnt = 0 := Fin.ext hcnt
  have bit_eq : s.wgBit = 0 := Fin.ext hbit
  rw [runOps_cons_of_next appended, runOps_nil, branchAppend_hashed (cnt ▸ hmin) sentinel, message, sent]
  simp only [clear_appended_raised, ← hbuf, ← hacc, ← bit_eq, ← cnt_eq]

end Sys2Proof.Machine
end

section
/-!
PROOFS. The family 30_encoding.md, words and bytes: the eight rows of stimulus words as one relation, the decoder
as its inverse, and the round trips.
-/
namespace Sys2Proof

/-! ## The rows of the stimulus format -/

/-- The words of the format `EVT32`, row by row (spec/30_encoding.md R93): the operation and its word. -/
inductive StimulusWord : Instr → EvtWord → Prop where
  | wgClk (d : Bool) : StimulusWord (.wgClk d) (evtWord 0x01#8 (levelField d) 0#16)
  | suEdge (lv : Bool) (t : BitVec 16) : StimulusWord (.suEdge lv t) (evtWord 0x02#8 (levelField lv) t)
  | suMatch (lv : Bool) : StimulusWord (.suMatch lv) (evtWord 0x03#8 (levelField lv) 0#16)
  | tkTick : StimulusWord .tkTick (evtWord 0x04#8 0#8 0#16)
  | btRx (b : Byte) : StimulusWord (.btRx b) (evtWord 0x05#8 b 0#16)
  | btTxrdy : StimulusWord .btTxrdy (evtWord 0x06#8 0#8 0#16)
  | envCard (k : Byte) : StimulusWord (.envCard k) (evtWord 0x07#8 k 0#16)
  | scCycle : StimulusWord .scCycle (evtWord 0x08#8 0#8 0#16)

@[simp] theorem levelOnly_evtWord (op a : BitVec 8) (t : BitVec 16) :
    levelOnly (evtWord op a t) = (a.extractLsb' 1 7 == 0#7) := by
  rw [levelOnly_eq, evtA_evtWord]

/-- The word of a row decodes to the row's operation. -/
theorem decodeEvt32_of_stimulusWord {i : Instr} {w : EvtWord} (h : StimulusWord i w) : decodeEvt32 w = .ok i := by
  cases h with
  | wgClk d => simp [decodeEvt32, checked, -BitVec.getLsbD_eq_getElem]
  | suEdge lv t => simp [decodeEvt32, checked, -BitVec.getLsbD_eq_getElem]
  | suMatch lv => simp [decodeEvt32, checked, -BitVec.getLsbD_eq_getElem]
  | tkTick => rfl
  | btRx b => simp [decodeEvt32, checked]
  | btTxrdy => rfl
  | envCard k => simp [decodeEvt32, checked]
  | scCycle => rfl

/-- The row's word is the operation's encoding, and the operation is well formed and no branch of SC.CYCLE. -/
theorem encode_of_stimulusWord {i : Instr} {w : EvtWord} (h : StimulusWord i w) :
    encode i = .evt w ∧ i.wellFormed = true ∧ i.coded = i := by
  cases h <;> exact ⟨rfl, rfl, rfl⟩

/-! ## What the decoder answers -/

/-- The `op` of a word is one of the eight that are assigned (spec/30_encoding.md R93). -/
def opAssigned (w : EvtWord) : Prop := 1 ≤ (evtOp w).toNat ∧ (evtOp w).toNat ≤ 8

/-- The three answers to a stimulus word (spec/30_encoding.md R93, R94, R105). -/
inductive StimulusAnswer (w : EvtWord) : Except DecodeError Instr → Prop where
  | operation {i : Instr} (h : StimulusWord i w) : StimulusAnswer w (.ok i)
  | unusedBits (h : opAssigned w) : StimulusAnswer w (.error .unusedOperandBits)
  | reserved (h : ¬ opAssigned w) : StimulusAnswer w (.error .reservedOp)

/-- An assigned `op`, whose row's word this is if the unused bits are zero. -/
theorem stimulusAnswer_checked {w : EvtWord} {c : Bool} {i : Instr} (hop : opAssigned w)
    (hword : c = true → StimulusWord i w) : StimulusAnswer w (checked c i) := by
  cases c with
  | true => exact .operation (hword rfl)
  | false => exact .unusedBits hop

/-- A byte whose bits 7:1 are zero is the field of a level (spec/30_encoding.md R94). -/
theorem exists_levelField {a : BitVec 8} (h : a.extractLsb' 1 7 = 0#7) : ∃ lv, a = levelField lv :=
  ⟨a.getLsbD 0, (levelField_of_high_zero a h).symm⟩

/-- The decoder, said once: by the `op` of the word and the operand bits that the row of this `op` leaves
unused. -/
theorem decodeEvt32_answer (w : EvtWord) : StimulusAnswer w (decodeEvt32 w) := by
  obtain ⟨op, a, t, rfl⟩ : ∃ op a t, w = evtWord op a t := ⟨_, _, _, (evtWord_fields w).symm⟩
  have assigned (hop : 1 ≤ op.toNat ∧ op.toNat ≤ 8) : opAssigned (evtWord op a t) := by
    rwa [opAssigned, evtOp_evtWord]
  simp only [decodeEvt32, evtOp_evtWord, evtA_evtWord, evtT_evtWord, evtLevel_evtWord, levelOnly_evtWord]
  split_ifs with h1 h2 h3 h4 h5 h6 h7 h8
  · subst h1
    refine stimulusAnswer_checked (assigned (by decide)) fun hc => ?_
    obtain ⟨hl, rfl⟩ := by simpa only [Bool.and_eq_true, beq_iff_eq] using hc
    obtain ⟨lv, rfl⟩ := exists_levelField hl
    rw [levelField_bit]; exact .wgClk lv
  · subst h2
    refine stimulusAnswer_checked (assigned (by decide)) fun hc => ?_
    obtain ⟨lv, rfl⟩ := exists_levelField (beq_iff_eq.1 hc)
    rw [levelField_bit]; exact .suEdge lv t
  · subst h3
    refine stimulusAnswer_checked (assigned (by decide)) fun hc => ?_
    obtain ⟨hl, rfl⟩ := by simpa only [Bool.and_eq_true, beq_iff_eq] using hc
    obtain ⟨lv, rfl⟩ := exists_levelField hl
    rw [levelField_bit]; exact .suMatch lv
  · subst h4
    refine stimulusAnswer_checked (assigned (by decide)) fun hc => ?_
    obtain ⟨rfl, rfl⟩ := by simpa only [Bool.and_eq_true, beq_iff_eq] using hc
    exact .tkTick
  · subst h5
    refine stimulusAnswer_checked (assigned (by decide)) fun hc => ?_
    obtain rfl := beq_iff_eq.1 hc
    exact .btRx a
  · subst h6
    refine stimulusAnswer_checked (assigned (by decide)) fun hc => ?_
    obtain ⟨rfl, rfl⟩ := by simpa only [Bool.and_eq_true, beq_iff_eq] using hc
    exact .btTxrdy
  · subst h7
    refine stimulusAnswer_checked (assigned (by decide)) fun hc => ?_
    obtain rfl := beq_iff_eq.1 hc
    exact .envCard a
  · subst h8
    refine stimulusAnswer_checked (assigned (by decide)) fun hc => ?_
    obtain ⟨rfl, rfl⟩ := by simpa only [Bool.and_eq_true, beq_iff_eq] using hc
    exact .scCycle
  · refine .reserved fun hop => ?_
    rw [opAssigned, evtOp_evtWord] at hop
    bv_omega

/-- A word decodes exactly when it is the word of a row. -/
theorem decodeEvt32_ok_iff {i : Instr} {w : EvtWord} : decodeEvt32 w = .ok i ↔ StimulusWord i w := by
  refine ⟨fun h => ?_, decodeEvt32_of_stimulusWord⟩
  have answer := h ▸ decodeEvt32_answer w
  cases answer with
  | operation word => exact word

/-! ## Round trips -/

/-- The operation of a host byte has that byte (spec/30_encoding.md R96). -/
theorem encode_decodeCmd8 (b : Byte) :
    encode (decodeCmd8 b) = .cmd b ∧ (decodeCmd8 b).wellFormed = true ∧ (decodeCmd8 b).coded = decodeCmd8 b := by
  by_cases h : b ∈ commandBytes
  · simp only [commandBytes, List.mem_cons, List.not_mem_nil, or_false] at h
    obtain rfl | rfl | rfl | rfl | rfl := h
    all_goals exact ⟨rfl, rfl, rfl⟩
  · rw [decodeCmd8_of_not_mem h]
    exact ⟨rfl, by simpa [Instr.wellFormed] using h, rfl⟩

/-- The operation of a card-frame byte has that byte (spec/30_encoding.md R97). -/
theorem encode_decodeFrm8 (b : Byte) :
    encode (decodeFrm8 b) = .frm b ∧ (decodeFrm8 b).wellFormed = true ∧ (decodeFrm8 b).coded = decodeFrm8 b := by
  by_cases h : b ∈ controlBytes
  · simp only [controlBytes, List.mem_cons, List.not_mem_nil, or_false] at h
    obtain rfl | rfl := h
    all_goals exact ⟨rfl, rfl, rfl⟩
  · rw [decodeFrm8_of_not_mem h]
    exact ⟨rfl, by simpa [Instr.wellFormed] using h, rfl⟩

/-- Settles O2: by the format of the bits. -/
theorem encodeOfDecode : Obligations.EncodeOfDecode := by
  intro c i h
  cases c with
  | evt w => exact encode_of_stimulusWord (decodeEvt32_ok_iff.1 h)
  | cmd b =>
    obtain rfl : decodeCmd8 b = i := Except.ok.inj h
    exact encode_decodeCmd8 b
  | frm b =>
    obtain rfl : decodeFrm8 b = i := Except.ok.inj h
    exact encode_decodeFrm8 b

/-- Settles O1: a stimulus operation's word is its row's, a command or control byte is in its format's list,
and a byte of a catch-all class is in neither list, by well-formedness. -/
theorem decodeOfEncode : Obligations.DecodeOfEncode := by
  intro i hwf
  cases i with
  | wgClk d => exact decodeEvt32_of_stimulusWord (.wgClk d)
  | suEdge lv t => exact decodeEvt32_of_stimulusWord (.suEdge lv t)
  | suMatch lv => exact decodeEvt32_of_stimulusWord (.suMatch lv)
  | tkTick => exact decodeEvt32_of_stimulusWord .tkTick
  | btRx b => exact decodeEvt32_of_stimulusWord (.btRx b)
  | btTxrdy => exact decodeEvt32_of_stimulusWord .btTxrdy
  | envCard k => exact decodeEvt32_of_stimulusWord (.envCard k)
  | scCycle | scTick2 | scIdle | scCmd | scCmdclr | scFrame | scAppend | scTick1 =>
    exact decodeEvt32_of_stimulusWord .scCycle
  | cmdO | cmdD | cmdN | cmdR | cmdV | frmStx | frmEtx => rfl
  | cmdRsvd b => exact congrArg Except.ok (decodeCmd8_of_not_mem (by simpa [Instr.wellFormed] using hwf))
  | frmData b => exact congrArg Except.ok (decodeFrm8_of_not_mem (by simpa [Instr.wellFormed] using hwf))

/-- Settles O4. -/
theorem sampleWordsDecode : Obligations.SampleWordsDecode :=
  ⟨decodeEvt32_of_stimulusWord (.wgClk true), decodeEvt32_of_stimulusWord (.suEdge false 1200#16),
    decodeEvt32_of_stimulusWord (.suMatch true), decodeEvt32_of_stimulusWord .tkTick,
    decodeEvt32_of_stimulusWord (.btRx 0x4F#8), decodeEvt32_of_stimulusWord .btTxrdy,
    decodeEvt32_of_stimulusWord (.envCard 1#8), decodeEvt32_of_stimulusWord .scCycle, rfl, rfl⟩

/-! ## The opcode table -/

/-- A row's word is covered by the row of the operation's mnemonic and by no other (spec/opcode_table.json). -/
theorem coveringRow_of_stimulusWord {i : Instr} {w : EvtWord} (h : StimulusWord i w) :
    (evtRows.filter fun r => r.covers w).map EvtRow.mnemonic = [i.mnemonic] := by
  have inTable : Laws.InTable.Statement i := by
    cases h with
    | wgClk d => exact Laws.InTable.wgClk d
    | suEdge lv t => exact Laws.InTable.suEdge lv t
    | suMatch lv => exact Laws.InTable.suMatch lv
    | tkTick => exact Laws.InTable.tkTick
    | btRx b => exact Laws.InTable.btRx b
    | btTxrdy => exact Laws.InTable.btTxrdy
    | envCard k => exact Laws.InTable.envCard k
    | scCycle => exact Laws.InTable.scCycle
  obtain ⟨hcode, -, hcoded⟩ := encode_of_stimulusWord h
  simpa only [Laws.InTable.Statement, Laws.InTable.inTable, hcode, hcoded, beq_iff_eq] using inTable

theorem and_opMask (x : BitVec 8) : x &&& 0xFF#8 = x := BitVec.and_allOnes

theorem and_timerMask (x : BitVec 16) : x &&& 0xFFFF#16 = x := BitVec.and_allOnes

/-- The level rows' mask of `a` is that of bits 7:1. -/
theorem high_zero_of_levelMask : ∀ a : BitVec 8, a &&& 0xFE#8 = 0#8 → a.extractLsb' 1 7 = 0#7 := by
  decide +kernel

/-- A word that a row covers is the word of an operation: field by field, the mask leaves what the operation
names. -/
theorem exists_stimulusWord_of_covers {w : EvtWord} {r : EvtRow} (hr : r ∈ evtRows) (hc : r.covers w = true) :
    ∃ i, StimulusWord i w := by
  obtain ⟨op, a, t, rfl⟩ : ∃ op a t, w = evtWord op a t := ⟨_, _, _, (evtWord_fields w).symm⟩
  have level (h : a &&& 0xFE#8 = 0#8) : ∃ lv, a = levelField lv := exists_levelField (high_zero_of_levelMask a h)
  simp only [Laws.InTable.evtRows_fields, List.mem_cons, List.not_mem_nil, or_false] at hr
  obtain rfl | rfl | rfl | rfl | rfl | rfl | rfl | rfl := hr
  all_goals
    simp only [Laws.InTable.covers_evtWord, Bool.and_eq_true, beq_iff_eq, and_opMask, and_timerMask,
      BitVec.and_zero, true_and, and_true] at hc
  · obtain ⟨rfl, ha, rfl⟩ := hc
    obtain ⟨d, rfl⟩ := level ha
    exact ⟨_, .wgClk d⟩
  · obtain ⟨rfl, ha⟩ := hc
    obtain ⟨lv, rfl⟩ := level ha
    exact ⟨_, .suEdge lv t⟩
  · obtain ⟨rfl, ha, rfl⟩ := hc
    obtain ⟨lv, rfl⟩ := level ha
    exact ⟨_, .suMatch lv⟩
  · obtain ⟨rfl, rfl, rfl⟩ := hc
    exact ⟨_, .tkTick⟩
  · obtain ⟨rfl, rfl⟩ := hc
    exact ⟨_, .btRx a⟩
  · obtain ⟨rfl, rfl, rfl⟩ := hc
    exact ⟨_, .btTxrdy⟩
  · obtain ⟨rfl, rfl⟩ := hc
    exact ⟨_, .envCard a⟩
  · obtain ⟨rfl, rfl, rfl⟩ := hc
    exact ⟨_, .scCycle⟩

/-- The operation of a word is covered by some row. -/
theorem exists_covers_of_stimulusWord {i : Instr} {w : EvtWord} (h : StimulusWord i w) :
    ∃ r ∈ evtRows, r.covers w = true := by
  have one : i.mnemonic ∈ (evtRows.filter fun r => r.covers w).map EvtRow.mnemonic := by
    simp [coveringRow_of_stimulusWord h]
  obtain ⟨r, hr, -⟩ := List.mem_map.1 one
  exact ⟨r, List.mem_filter.1 hr⟩

theorem toNat_evtOp (w : EvtWord) : (evtOp w).toNat = w.toNat / 2 ^ 24 := by
  rw [evtOp, BitVec.extractLsb'_toNat, Nat.shiftRight_eq_div_pow]
  omega

/-- Settles O3: by the three answers of the decoder. -/
theorem stimulusWordDecodesByTable : Obligations.StimulusWordDecodesByTable := by
  intro w
  refine ⟨fun i h => coveringRow_of_stimulusWord (decodeEvt32_ok_iff.1 h), fun ⟨r, hr, hc⟩ => ?_,
    fun uncovered => ?_⟩
  · obtain ⟨i, word⟩ := exists_stimulusWord_of_covers hr hc
    exact ⟨i, decodeEvt32_of_stimulusWord word⟩
  · have answer := decodeEvt32_answer w
    rw [← toNat_evtOp]
    generalize decodeEvt32 w = d at answer ⊢
    cases answer with
    | operation word =>
      obtain ⟨r, hr, hc⟩ := exists_covers_of_stimulusWord word
      exact absurd hc (by simp [uncovered r hr])
    | unusedBits hop => exact congrArg Except.error (if_pos hop).symm
    | reserved hop => exact congrArg Except.error (if_neg hop).symm

end Sys2Proof
end

section
/-!
SUPPORT. The selection table of SC.CYCLE as an equivalence, and what the operation of a selected branch and of a
decoded host byte does.
-/
namespace Sys2Proof.Machine

variable (s : State)

/-! ## The selection table -/

/-- The "selected_when" of each branch in spec/opcode_table.json (spec/44_scheduler.md R231). -/
def SelectedWhen (s : State) : Branch → Prop
  | .tick2 => s.scPhase = .tick2
  | .idle => s.scPhase = .top ∧ s.evf = 0#3 ∧ s.fifoCnt = 0
  | .cmd => s.scPhase = .top ∧ flagSet .rx s = true ∧ s.rxq ≠ []
  | .cmdclr => s.scPhase = .top ∧ flagSet .rx s = true ∧ s.rxq = []
  | .frame => s.scPhase = .top ∧ flagSet .rx s = false ∧ 0 < s.fifoCnt
  | .append => s.scPhase = .top ∧ flagSet .rx s = false ∧ s.fifoCnt = 0 ∧ flagSet .appended s = true
  | .tick1 => s.scPhase = .top ∧ flagSet .rx s = false ∧ s.fifoCnt = 0 ∧ flagSet .appended s = false ∧
      flagSet .tick s = true

theorem fifoCnt_eq_zero_iff : s.fifoCnt = 0 ↔ s.fifo = [] := List.length_eq_zero_iff

theorem fifoCnt_pos_iff : 0 < s.fifoCnt ↔ s.fifo ≠ [] := List.length_pos_iff

/-- The row of the branch that a state selects holds there. -/
theorem selectedWhen_selectBranch : SelectedWhen s (selectBranch s) := by
  obtain ⟨hp, e⟩ | ⟨hp, hevf, hfifo, e⟩ | ⟨hp, hrx, hq, e⟩ | ⟨hp, hrx, hq, e⟩ |
    ⟨hp, hrx, hfifo, e⟩ | ⟨hp, hrx, hfifo, ha, e⟩ | ⟨hp, hrx, hfifo, ha, ht, e⟩ := selectBranch_cases s
  all_goals rw [e]
  · exact hp
  · exact ⟨hp, hevf, (fifoCnt_eq_zero_iff s).2 hfifo⟩
  · exact ⟨hp, hrx, hq⟩
  · exact ⟨hp, hrx, hq⟩
  · exact ⟨hp, hrx, (fifoCnt_pos_iff s).2 hfifo⟩
  · exact ⟨hp, hrx, (fifoCnt_eq_zero_iff s).2 hfifo, ha⟩
  · exact ⟨hp, hrx, (fifoCnt_eq_zero_iff s).2 hfifo, ha, ht⟩

/-- A set flag is work pending. -/
theorem evf_ne_zero_of_flagSet {f : EventFlag} (h : flagSet f s = true) : s.evf ≠ 0#3 := by
  intro zero
  simp [flagSet, zero] at h

/-- A branch whose row holds is selected: each row excludes those before it. -/
theorem selectBranch_of_selectedWhen {b : Branch} (h : SelectedWhen s b) : selectBranch s = b := by
  cases b with
  | tick2 => exact if_pos h
  | idle =>
    obtain ⟨hp, hevf, hfifo⟩ := h
    simp [selectBranch, hp, hevf, hfifo]
  | cmd =>
    obtain ⟨hp, hrx, hq⟩ := h
    simp [selectBranch, hp, hrx, hq, evf_ne_zero_of_flagSet s hrx]
  | cmdclr =>
    obtain ⟨hp, hrx, hq⟩ := h
    simp [selectBranch, hp, hrx, hq, evf_ne_zero_of_flagSet s hrx]
  | frame =>
    obtain ⟨hp, hrx, hfifo⟩ := h
    simp [selectBranch, hp, hrx, hfifo, hfifo.ne']
  | append =>
    obtain ⟨hp, hrx, hfifo, ha⟩ := h
    simp [selectBranch, hp, hrx, hfifo, ha, evf_ne_zero_of_flagSet s ha]
  | tick1 =>
    obtain ⟨hp, hrx, hfifo, ha, ht⟩ := h
    simp [selectBranch, hp, hrx, hfifo, ha, evf_ne_zero_of_flagSet s ht]

theorem selectBranch_iff (b : Branch) : selectBranch s = b ↔ SelectedWhen s b :=
  ⟨fun h => h ▸ selectedWhen_selectBranch s, selectBranch_of_selectedWhen s⟩

/-! ## Running a branch -/

/-- The operation of a branch, awake and where the branch's row holds. -/
theorem exec_branchOperation_of_selectedWhen {b : Branch} (awake : s.sleep = false) (h : SelectedWhen s b) :
    exec (branchOperation b) s = .next (runBranch b s) := by
  rw [exec_branchOperation]
  exact (takingBranch_next_iff s b _ _).2 ⟨awake, selectBranch_of_selectedWhen s h, rfl⟩

/-! ## Commands -/

/-- The operation that a host byte decodes to does the byte's command (spec/44_scheduler.md R239). -/
theorem exec_decodeCmd8 (b : Byte) : exec (decodeCmd8 b) s = .next (doCommand b s) := by
  simp only [decodeCmd8, doCommand]
  cases hostCommand b <;> rfl

end Sys2Proof.Machine
end

section
/-! PROOFS. The family 30_encoding.md, the branches of SC.CYCLE. -/
namespace Sys2Proof.Machine

/-- Settles O34. -/
theorem branchSelectionFollowsTheTable : Obligations.BranchSelectionFollowsTheTable := fun s =>
  ⟨selectBranch_iff s .tick2, selectBranch_iff s .idle, selectBranch_iff s .cmd, selectBranch_iff s .cmdclr,
    selectBranch_iff s .frame, selectBranch_iff s .append, selectBranch_iff s .tick1⟩

/-- Settles O35. -/
theorem cycleRunsTheSelectedBranch : Obligations.CycleRunsTheSelectedBranch := fun s awake =>
  ⟨_, (execScCycle_next_iff s _).2 ⟨awake, rfl⟩,
    exec_branchOperation_of_selectedWhen s awake (selectedWhen_selectBranch s)⟩

/-- Settles O32: by the two outcomes of the idle timeout; the flag and the phase are written after it. -/
theorem idleTimeoutFiresPastTheThreshold : Obligations.IdleTimeoutFiresPastTheThreshold := by
  intro s awake hphase
  have run : exec .scTick2 s = .next (branchTick2 s) :=
    exec_branchOperation_of_selectedWhen s (b := .tick2) awake hphase
  have threshold : s.par.timeoutTicks = 10 * s.par.tickHz := rfl
  rw [run, branchTick2, ← threshold]
  obtain ⟨late, e⟩ | ⟨early, e⟩ := idleTimeout_cases s
  · rw [e]
    exact ⟨fun _ => rfl, fun early => absurd late (Nat.not_lt_of_le early)⟩
  · rw [e]
    exact ⟨fun late => absurd late (Nat.not_lt_of_le early), fun _ => rfl⟩

/-- Settles O38. -/
theorem commandBranchExecutesOneByte : Obligations.CommandBranchExecutesOneByte := by
  intro s b bs awake hphase hrx hq
  have popped : branchCmd s = doCommand b { s with rxq := bs } := by rw [branchCmd, hq]
  have run : exec .scCmd s = .next (branchCmd s) :=
    exec_branchOperation_of_selectedWhen s (b := .cmd) awake ⟨hphase, hrx, hq ▸ List.cons_ne_nil b bs⟩
  exact ⟨_, run, popped ▸ exec_decodeCmd8 { s with rxq := bs } b⟩

end Sys2Proof.Machine
end

section
/-!
SUPPORT. The checksum of a card frame: a pair determines its two characters, the checksum and five pairs determine
the sixth, and `frame_valid()` is a statement about the collected character string.
-/
namespace Sys2Proof.Machine

/-- The two nibbles of a byte. -/
theorem append_nibbles_injective {x y x' y' : BitVec 4} (h : x ++ y = x' ++ y') : x = x' ∧ y = y' := by
  constructor
  · rw [← BitVec.extractLsb'_append_eq_left (a := x) (b := y), h, BitVec.extractLsb'_append_eq_left]
  · rw [← BitVec.extractLsb'_append_eq_right (a := x) (b := y), h, BitVec.extractLsb'_append_eq_right]

/-- Two pairs of valid hex characters with one value are one pair of characters (spec/30_encoding.md R101). -/
theorem hexPair_injective {a b a' b' : Byte} (ha : (hexval a).isSome = true) (hb : (hexval b).isSome = true)
    (ha' : (hexval a').isSome = true) (hb' : (hexval b').isSome = true) (h : hexPair a b = hexPair a' b') :
    a = a' ∧ b = b' := by
  obtain ⟨x, hx⟩ := Option.isSome_iff_exists.1 ha
  obtain ⟨y, hy⟩ := Option.isSome_iff_exists.1 hb
  obtain ⟨x', hx'⟩ := Option.isSome_iff_exists.1 ha'
  obtain ⟨y', hy'⟩ := Option.isSome_iff_exists.1 hb'
  simp only [hexPair, hx, hy, hx', hy', Option.getD_some] at h
  obtain ⟨rfl, rfl⟩ := append_nibbles_injective h
  exact ⟨hexval_injective a a' ha (hx.trans hx'.symm), hexval_injective b b' hb (hy.trans hy'.symm)⟩

/-- The checksum and five of the pairs determine the sixth (spec/42_assembler.md R179). -/
theorem framePair_of_frameXor {s s' : State} {p : Nat} (hp : p < 6)
    (others : ∀ i, i ≠ p → framePair s' i = framePair s i) (hxor : frameXor s' = frameXor s) :
    framePair s' p = framePair s p := by
  simp only [frameXor] at hxor
  interval_cases p
  all_goals
    simp (disch := decide) only [others] at hxor
    simpa [BitVec.xor_left_inj, BitVec.xor_right_inj] using hxor

/-- The XOR of the six pairs is that of the first twelve characters taken in pairs (spec/42_assembler.md R179). -/
theorem frameXor_eq_pairXor (s : State) : frameXor s = pairXor (Memory.bytes .frm s.frm 0 12) := by
  simp [frameXor, framePair, frmAt, Memory.bytes, List.range_succ, pairXor, BitVec.xor_assoc]

/-- `frame_valid()` in the terms of a character string (spec/30_encoding.md R100, spec/42_assembler.md R177). -/
theorem frameValid_iff_bytes (s : State) :
    frameValid s = true ↔
      s.frmLen.val = 14 ∧ s.cnt.val = 0 ∧
        (∀ c ∈ Memory.bytes .frm s.frm 0 12, (hexval c).isSome = true) ∧
        pairXor (Memory.bytes .frm s.frm 0 12) = 0#8 ∧ frmAt s 12 = 13#8 ∧ frmAt s 13 = 10#8 := by
  rw [frameValid_iff, frameXor_eq_pairXor]
  simp [Memory.bytes, frmAt]

end Sys2Proof.Machine
end

section
/-! PROOFS. The family 30_encoding.md, one character of a card frame flipped. -/
namespace Sys2Proof.Machine

/-- Two valid frames that agree outside one of the first twelve characters agree in that character
(spec/42_assembler.md R178, R179). -/
theorem frmAt_of_frameValid {s s' : State} (hv : frameValid s = true) (hv' : frameValid s' = true) {j : Nat}
    (hj : j < 12) (others : ∀ i, i ≠ j → frmAt s' i = frmAt s i) : frmAt s' j = frmAt s j := by
  obtain ⟨-, -, hex, hxor, -, -⟩ := (frameValid_iff s).1 hv
  obtain ⟨-, -, hex', hxor', -, -⟩ := (frameValid_iff s').1 hv'
  have pairs (i : Nat) (hi : i ≠ j / 2) : framePair s' i = framePair s i := by
    rw [framePair, framePair, others _ (by omega), others _ (by omega)]
  have pair : framePair s' (j / 2) = framePair s (j / 2) :=
    framePair_of_frameXor (by omega) pairs (hxor'.trans hxor.symm)
  obtain ⟨even, odd⟩ := hexPair_injective (hex' _ (by omega)) (hex' _ (by omega)) (hex _ (by omega))
    (hex _ (by omega)) pair
  obtain hj | hj : j = 2 * (j / 2) ∨ j = 2 * (j / 2) + 1 := by omega
  · rw [hj, even]
  · rw [hj, odd]

/-- A byte with one bit flipped is another byte. -/
theorem xor_bit_ne (b : Byte) {k : Nat} (hk : k < 8) : b ^^^ (1#8 <<< k) ≠ b := by
  intro h
  have bit := congrArg (BitVec.getLsbD · k) h
  simp [hk] at bit

/-- Settles O26: were the other frame valid too, the flipped character would be unchanged. -/
theorem singleBitFlipIsRejected : Obligations.SingleBitFlipIsRejected := by
  intro s s' j k hv hj hk others flipped
  have invalid : ¬ frameValid s' = true := fun hv' =>
    xor_bit_ne (frmAt s j) hk (flipped.symm.trans (frmAt_of_frameValid hv hv' hj others))
  obtain ⟨-, valid, -⟩ | ⟨-, e⟩ := frameEnd_cases s'
  · exact absurd valid invalid
  · rw [exec_frmEtx, e]

end Sys2Proof.Machine
end

section
/-!
PROOFS. The family 30_encoding.md, a whole card frame: what the data bytes leave in `FRM`, and that a frame end
then asks whether they are a valid card frame.
-/
namespace Sys2Proof.Machine

/-! ## The data bytes -/

/-- The state after data bytes, in order (spec/42_assembler.md R176). -/
def dataTaken (fs : List Byte) (s : State) : State := fs.foldl (fun t b => frameData b t) s

theorem runOps_frmData : ∀ (fs : List Byte) (s : State), runOps (fs.map .frmData) s = .next (dataTaken fs s)
  | [], _ => rfl
  | b :: fs, s => (runOps_cons_of_next (exec_frmData s b) _).trans (runOps_frmData fs (frameData b s))

/-- `t` is `s` but for the frame registers. -/
abbrev FrameOnly (s t : State) : Prop := t = { s with frm := t.frm, frmLen := t.frmLen, frmColl := t.frmColl }

theorem FrameOnly.trans {s t u : State} (hst : FrameOnly s t) (htu : FrameOnly t u) : FrameOnly s u := by
  unfold FrameOnly at htu
  rw [hst] at htu
  exact htu

theorem frameData_frameOnly (b : Byte) (s : State) : FrameOnly s (frameData b s) := by
  obtain ⟨_, _, e⟩ | ⟨_, _, e⟩ | ⟨_, e⟩ := frameData_cases s b
  all_goals rw [e]

/-- In `t` the bytes `fs` have been collected since a frame start in `s`: the first fourteen are stored, and a
longer frame is marked (spec/42_assembler.md R175, R176). -/
structure Collected (s : State) (fs : List Byte) (t : State) : Prop where
  collecting : t.frmColl = true
  form : Memory.wf .frm t.frm = true
  len : t.frmLen.val = min fs.length 15
  stored : ∀ i, i < 14 → i < fs.length → Memory.read .frm t.frm i = fs.getD i 0#8
  frame : FrameOnly s t

theorem collected_frameStart {s : State} (hwf : Memory.wf .frm s.frm = true) : Collected s [] (frameStart s) where
  collecting := rfl
  form := hwf
  len := rfl
  stored := fun _ _ hi => absurd hi (Nat.not_lt_zero _)
  frame := rfl

theorem collected_frameData {s t : State} {fs : List Byte} (h : Collected s fs t) (b : Byte) :
    Collected s (fs ++ [b]) (frameData b t) := by
  have len := h.len
  have frame := h.frame.trans (frameData_frameOnly b t)
  have more : (fs ++ [b]).length = fs.length + 1 := by simp
  obtain ⟨room, -, e⟩ | ⟨full, -, e⟩ | ⟨idle, -⟩ := frameData_cases t b
  · have here : t.frmLen.val = fs.length := by omega
    rw [e] at frame ⊢
    refine { h with form := Memory.wf_write h.form room b, len := ?_, stored := fun i hi hlen => ?_, frame }
    · change t.frmLen.val + 1 = _
      omega
    · rw [Memory.read_write h.form, here]
      by_cases last : i = fs.length
      · simp [last]
      · have old : i < fs.length := by omega
        rw [if_neg last, h.stored i hi old, List.getD_append _ _ _ _ old]
  · rw [e] at frame ⊢
    refine { h with len := ?_, stored := fun i hi _ => ?_, frame }
    · change 15 = _
      omega
    · have old : i < fs.length := by omega
      rw [List.getD_append _ _ _ _ old]
      exact h.stored i hi old
  · exact absurd (h.collecting.symm.trans idle) nofun

theorem collected_dataTaken {s : State} (hwf : Memory.wf .frm s.frm = true) (fs : List Byte) :
    Collected s fs (dataTaken fs (frameStart s)) := by
  induction fs using List.reverseRecOn with
  | nil => exact collected_frameStart hwf
  | append_singleton fs b ih =>
    rw [dataTaken, List.foldl_append]
    exact collected_frameData ih b

/-! ## The frame end -/

theorem Collected.bytes_eq {s t : State} {fs : List Byte} (h : Collected s fs t) {n : Nat} (hn : n ≤ 14)
    (hlen : n ≤ fs.length) : Memory.bytes .frm t.frm 0 n = fs.take n := by
  refine List.ext_getElem (by simpa using hlen) fun i inBytes _ => ?_
  have hi : i < n := by simpa using inBytes
  have inside : i < fs.length := by omega
  simp [Memory.bytes, h.stored i (by omega) inside, inside]

/-- A frame end finds a valid frame exactly if the bytes collected are one and the buffer is empty. -/
theorem Collected.frameValid_iff {s t : State} {fs : List Byte} (h : Collected s fs t) :
    frameValid t = true ↔ cardFrameValid fs = true ∧ s.cnt.val = 0 := by
  have len := h.len
  have cnt : t.cnt = s.cnt := by rw [h.frame]
  by_cases complete : fs.length = 14
  · have hlen : t.frmLen.val = 14 := by omega
    rw [frameValid_iff_bytes, h.bytes_eq (by omega) (by omega), frmAt, frmAt, h.stored 12 (by omega) (by omega),
      h.stored 13 (by omega) (by omega)]
    simp only [cardFrameValid, complete, hlen, cnt, Bool.and_eq_true, beq_iff_eq, List.all_eq_true]
    tauto
  · have hlen : t.frmLen.val ≠ 14 := by omega
    simp [frameValid_iff_bytes, cardFrameValid, complete, hlen]

theorem length_of_cardFrameValid {fs : List Byte} (h : cardFrameValid fs = true) : fs.length = 14 := by
  simp only [cardFrameValid, Bool.and_eq_true, beq_iff_eq] at h
  obtain ⟨⟨⟨⟨len, -⟩, -⟩, -⟩, -⟩ := h
  exact len

/-- Settles O27: the data bytes are collected, and the frame end commits or discards them. -/
theorem wholeCardFrameIsAtomic : Obligations.WholeCardFrameIsAtomic := by
  intro fs s hbuf hfrm _
  have collected := collected_dataTaken hfrm fs
  have run : runOps (.frmStx :: fs.map .frmData ++ [.frmEtx]) s =
      .next (frameEnd (dataTaken fs (frameStart s))) := by
    rw [List.cons_append, runOps_cons_of_next (exec_frmStx s), runOps_append_of_next (runOps_frmData fs _),
      runOps_cons_of_next (exec_frmEtx _), runOps_nil]
  refine ⟨_, run, ?_⟩
  generalize dataTaken fs (frameStart s) = t at collected ⊢
  have frame := collected.frame
  obtain ⟨-, valid, e⟩ | ⟨discarded, e⟩ := frameEnd_cases t
  · obtain ⟨hfs, hcnt⟩ := collected.frameValid_iff.1 valid
    have len := length_of_cardFrameValid hfs
    have stored : frameId t = fs.take 10 := collected.bytes_eq (n := 10) (by decide) (by omega)
    have ten : (fs.take 10).length = 10 := by simp [len]
    have fits : 0 + (fs.take 10).length ≤ Space.size .buf := by rw [ten]; decide
    have act : t.act = s.act := by rw [frame]
    have buf : t.buf = s.buf := by rw [frame]
    rw [e, if_pos ⟨hfs, hcnt⟩, stored, act, buf]
    refine ⟨by rw [frame], rfl, rfl, fun a => ?_⟩
    rw [Memory.read_writeFrom _ hbuf fits, ten]
    by_cases ha : a < 10
    · simp [ha, List.getD_eq_getElem?_getD]
    · simp [ha]
  · have rejected : ¬ (cardFrameValid fs = true ∧ s.cnt.val = 0) := fun accepted =>
      discarded ⟨collected.collecting, collected.frameValid_iff.2 accepted⟩
    rw [e, if_neg rejected, frame]
    exact ⟨rfl, rfl, rfl, rfl⟩

end Sys2Proof.Machine
end

section
/-!
PROOFS. The family 30_encoding.md, an ideal serial frame: between two transitions the level is constant, so that
each transition records the data bits of the cells it ends.
-/
namespace Sys2Proof.Machine

/-! ## Time and cells -/

/-- A wrap between the origin and a later count does not matter (spec/41_softuart.md R145). -/
theorem elapsed_add_mod {p : Params} {origin e : Nat} (ho : origin < 2 ^ p.timerW) (he : e < 2 ^ p.timerW) :
    elapsed p ((origin + e) % 2 ^ p.timerW) origin = e := by
  rw [elapsed, Nat.mod_eq_of_lt ho, Nat.mod_add_mod]
  have whole : origin + e + (2 ^ p.timerW - origin) = e + 2 ^ p.timerW := by omega
  rw [whole, Nat.add_mod_right, Nat.mod_eq_of_lt he]

/-- `k` whole bit periods are `k` cells (spec/41_softuart.md R149). -/
theorem suCells_mul {p : Params} {T : Nat} (hphase : p.suPhaseQ = 0) (htbit : p.suTbitQ = T * 2 ^ p.suFrac)
    (hT : 0 < T) (k : Nat) : suCells p (k * T) = k := by
  rw [suCells, hphase, htbit, Nat.add_zero, Nat.mul_assoc]
  exact Nat.mul_div_cancel k (Nat.mul_pos hT (Nat.two_pow_pos _))

/-! ## A transition while sampling -/

/-- The data cells that have elapsed at count `t` (spec/41_softuart.md R145, R148). -/
def cellsAt (t : Nat) (s : State) : Nat := dataCells (suCells s.par (elapsed s.par t s.suOrigin))

/-- A transition before the eighth data bit records and goes on (spec/41_softuart.md R146). -/
theorem suEdge_records {s : State} {lv : Bool} {t n : Nat} (hst : s.suState = .sampling) (hn : cellsAt t s = n)
    (n8 : n ≤ 8) (short : max s.suBits.val n ≠ 8) :
    suEdge lv t s = suFill lv n n8 (clearSecs s) := by
  subst hn
  have sampled : suSample lv t (clearSecs s) = suFill lv (cellsAt t s) n8 (clearSecs s) := if_neg short
  rw [suEdge_sampling s lv t hst, sampled]
  exact if_neg fun ⟨h, _⟩ => absurd (hst.symm.trans h) nofun

/-- A low-to-high transition at the eighth data bit completes the byte and is no start edge
(spec/41_softuart.md R147, R148). -/
theorem suEdge_rising_completes {s : State} {t : Nat} (hst : s.suState = .sampling) (hn : cellsAt t s = 8) :
    suEdge true t s = suFinish (suFill true 8 (Nat.le_refl 8) (clearSecs s)) := by
  have full : (suFill true (cellsAt t s) (dataCells_le _) (clearSecs s)).suBits.val = 8 := by
    change max s.suBits.val (cellsAt t s) = 8
    omega
  have sampled : suSample true t (clearSecs s) =
      suFinish (suFill true (cellsAt t s) (dataCells_le _) (clearSecs s)) := if_pos full
  rw [suEdge_sampling s true t hst, sampled, if_neg fun ⟨_, h⟩ => Bool.noConfusion h]
  congr 2

/-! ## The bits recorded so far -/

/-- The `n` least significant bits of a byte, the others 0: `SU_BYTE` after `n` cells (spec/41_softuart.md R146). -/
def lowBits (b : Byte) (n : Nat) : Byte := (b.setWidth n).setWidth 8

theorem getLsbD_lowBits (b : Byte) (n j : Nat) : (lowBits b n).getLsbD j = (b.getLsbD j && decide (j < n)) := by
  simp only [lowBits, BitVec.getLsbD_setWidth]
  by_cases inside : j < 8
  · simp [inside, Bool.and_comm]
  · simp [inside, BitVec.getLsbD_of_ge b j (Nat.le_of_not_lt inside)]

theorem lowBits_zero (b : Byte) : lowBits b 0 = 0#8 :=
  BitVec.eq_of_getLsbD_eq fun j _ => by simp [getLsbD_lowBits]

theorem lowBits_eight (b : Byte) : lowBits b 8 = b := by simp [lowBits]

/-- The bits `m` to `n - 1` of a byte are all `v`. -/
def Constant (b : Byte) (m n : Nat) (v : Bool) : Prop := ∀ i, m ≤ i → i < n → b.getLsbD i = v

/-- A run of equal bits is recorded (spec/41_softuart.md R146). -/
theorem recordBits_lowBits {b : Byte} {m n : Nat} {v : Bool} (hmn : m ≤ n) (hn : n ≤ 8) (h : Constant b m n v) :
    recordBits v (n - m) m (lowBits b m) = lowBits b n := by
  refine BitVec.eq_of_getLsbD_eq fun j _ => ?_
  have whole : m + (n - m) = n := by omega
  rw [getLsbD_recordBits v _ _ _ (by omega), getLsbD_lowBits, getLsbD_lowBits, whole]
  by_cases old : j < m
  · have notNew : ¬ m ≤ j := by omega
    have inside : j < n := by omega
    simp [old, notNew, inside]
  · by_cases inside : j < n
    · have new : m ≤ j ∧ j < n := by omega
      rw [h j new.1 new.2]
      simp [old, new]
    · simp [old, inside]

/-! ## The frame, transition by transition -/

/-- The timing of an ideal serial frame whose bit period is `T` ticks and whose start edge is at count `t0`
(spec/30_encoding.md R99, R108). -/
structure IdealTiming (p : Params) (t0 T : Nat) : Prop where
  width : p.timerW = 16
  phase : p.suPhaseQ = 0
  period : p.suTbitQ = T * 2 ^ p.suFrac
  positive : 0 < T
  frameFits : 9 * T < 2 ^ 16
  startFits : t0 < 2 ^ 16

/-- The count at the start of cell `k`. -/
def cellStart (t0 T k : Nat) : BitVec 16 := BitVec.ofNat 16 (t0 + k * T)

theorem cellStart_fits {p : Params} {t0 T : Nat} (h : IdealTiming p t0 T) (k : Nat) :
    (cellStart t0 T k).toNat < 2 ^ p.timerW := by
  rw [h.width]
  exact (cellStart t0 T k).isLt

/-- At the start of cell `k + 1` the cells of `k` data bits have elapsed. -/
theorem cellsAt_cellStart {s : State} {t0 T k : Nat} (h : IdealTiming s.par t0 T) (horigin : s.suOrigin = t0)
    (hk : k ≤ 8) : cellsAt (cellStart t0 T (k + 1)).toNat s = k := by
  have width : 2 ^ 16 = 2 ^ s.par.timerW := by rw [h.width]
  have before : (k + 1) * T < 2 ^ s.par.timerW := by
    rw [← width]
    exact (Nat.mul_le_mul_right T (Nat.succ_le_succ hk)).trans_lt h.frameFits
  have elapsedTime : elapsed s.par (cellStart t0 T (k + 1)).toNat t0 = (k + 1) * T := by
    rw [cellStart, BitVec.toNat_ofNat, width, elapsed_add_mod (width ▸ h.startFits) before]
  rw [cellsAt, horigin, elapsedTime, suCells_mul h.phase h.period h.positive, dataCells, Nat.add_sub_cancel,
    min_eq_left hk]

/-- Inside the serial frame for `b` that began at count `t0` in state `s`, `m` data bits are recorded. -/
def sampled (b : Byte) (t0 : Nat) (m : Fin 9) (s : State) : State :=
  { s with
    sleep := false, secs := 0, suOrigin := t0, suMatch := (t0 + s.par.suTimeout) % 2 ^ s.par.timerW
    suArmed := true, suState := .sampling, suBits := m, suByte := lowBits b m.val }

/-- The serial frame for `b` is over and its byte is pushed (spec/41_softuart.md R147, R150). -/
def received (b : Byte) (t0 : Nat) (s : State) : State :=
  { sampled b t0 8 s with suArmed := false, suState := .awaitStart, suByte := b, fifo := s.fifo ++ [b] }

theorem suFill_sampled {b : Byte} {t0 : Nat} {m : Fin 9} {n : Nat} {v : Bool} {s : State} (hmn : m.val ≤ n)
    (hn : n ≤ 8) (h : Constant b m.val n v) :
    suFill v n hn (sampled b t0 m s) = sampled b t0 ⟨n, by omega⟩ s := by
  have bits : max m.val n = n := max_eq_right hmn
  have byte := recordBits_lowBits hmn hn h
  simp only [suFill, sampled, bits, byte]

theorem suFinish_sampled {b : Byte} {t0 : Nat} {s : State} (room : s.fifo.length < 16) :
    suFinish (sampled b t0 8 s) = received b t0 s := by
  have byte : (sampled b t0 8 s).suByte = b := lowBits_eight b
  obtain ⟨_, e⟩ | ⟨full, _⟩ := suFinish_cases (sampled b t0 8 s)
  · rw [e, byte]
    rfl
  · exact absurd room (Nat.not_lt_of_le full)

/-- The start edge (spec/41_softuart.md R143). -/
theorem exec_startEdge {t0 T : Nat} {s : State} (h : IdealTiming s.par t0 T) (hst : s.suState = .awaitStart)
    (b : Byte) : exec (.suEdge false (cellStart t0 T 0)) s = .next (sampled b t0 0 s) := by
  have count : (cellStart t0 T 0).toNat = t0 := by
    rw [cellStart, Nat.zero_mul, Nat.add_zero, BitVec.toNat_ofNat, Nat.mod_eq_of_lt h.startFits]
  refine (exec_suEdge_next_iff s false _ _).2 ⟨cellStart_fits h 0, ?_⟩
  rw [suEdge_await (handlerEntry s) false _ hst, if_pos rfl, count]
  simp only [sampled, suStart, clearSecs, handlerEntry, Fin.coe_ofNat_eq_mod, Nat.zero_mod, lowBits_zero]

/-- A transition at the start of a cell up to the eighth records the cells before it. -/
theorem exec_cellEdge {b : Byte} {t0 T k : Nat} {m : Fin 9} {v : Bool} {s : State} (h : IdealTiming s.par t0 T)
    (hmk : m.val ≤ k) (hk : k < 8) (hc : Constant b m.val k v) :
    exec (.suEdge v (cellStart t0 T (k + 1))) (sampled b t0 m s) = .next (sampled b t0 ⟨k, by omega⟩ s) := by
  refine (exec_suEdge_next_iff _ v _ _).2 ⟨cellStart_fits h _, ?_⟩
  have cells : cellsAt (cellStart t0 T (k + 1)).toNat (handlerEntry (sampled b t0 m s)) = k :=
    cellsAt_cellStart h rfl (by omega)
  have short : max (handlerEntry (sampled b t0 m s)).suBits.val k ≠ 8 := by
    change max m.val k ≠ 8
    omega
  rw [suEdge_records rfl cells (by omega) short]
  exact (suFill_sampled hmk _ hc).symm

/-- A transition at the start of the stop bit completes a byte whose last bit is 1. -/
theorem exec_stopEdge {b : Byte} {t0 T : Nat} {m : Fin 9} {s : State} (h : IdealTiming s.par t0 T)
    (room : s.fifo.length < 16) (hc : Constant b m.val 8 true) :
    exec (.suEdge true (cellStart t0 T 9)) (sampled b t0 m s) = .next (received b t0 s) := by
  refine (exec_suEdge_next_iff _ true _ _).2 ⟨cellStart_fits h _, ?_⟩
  have cells : cellsAt (cellStart t0 T 9).toNat (handlerEntry (sampled b t0 m s)) = 8 :=
    cellsAt_cellStart h rfl (Nat.le_refl 8)
  have filled := suFill_sampled (s := s) (t0 := t0) (Nat.le_of_lt_succ m.isLt) (Nat.le_refl 8) hc
  rw [suEdge_rising_completes rfl cells, ← suFinish_sampled room]
  exact (congrArg suFinish filled).symm

/-- The countdown match completes a byte whose last bit is 0 (spec/41_softuart.md R152). -/
theorem exec_match {b : Byte} {t0 : Nat} {m : Fin 9} {s : State} (room : s.fifo.length < 16)
    (hc : Constant b m.val 8 false) :
    exec (.suMatch true) (sampled b t0 m s) = .next (received b t0 s) := by
  have filled := suFill_sampled (s := s) (t0 := t0) (Nat.le_of_lt_succ m.isLt) (Nat.le_refl 8) hc
  have finished := (congrArg suFinish filled).trans (suFinish_sampled room)
  rw [exec_suMatch, suMatch_armed _ true rfl]
  exact congrArg (fun t => Host.Outcome.next (clearSecs t)) finished

/-! ## The whole frame -/

/-- The line level in the cell of data bit `k`: low is 1 (spec/30_encoding.md R99). -/
theorem cellLevel_data (b : Byte) {k : Nat} (hk : k < 8) : cellLevel b (k + 1) = !b.getLsbD k := by
  have inside : k + 1 ≤ 8 := hk
  simp [cellLevel, inside]

theorem charEdges_of_same {b : Byte} {k : Nat} {level : Bool} (t0 T n : Nat) (h : cellLevel b k = level) :
    charEdges b t0 T (n + 1) k level = charEdges b t0 T n (k + 1) level := if_pos h

theorem charEdges_of_changed {b : Byte} {k : Nat} {level : Bool} (t0 T n : Nat) (h : cellLevel b k ≠ level) :
    charEdges b t0 T (n + 1) k level =
      .suEdge (cellLevel b k) (cellStart t0 T k) :: charEdges b t0 T n (k + 1) (cellLevel b k) := if_neg h

theorem constant_self (b : Byte) (k : Nat) : Constant b k (k + 1) (b.getLsbD k) := fun i hki hik => by
  rw [Nat.le_antisymm (Nat.le_of_lt_succ hik) hki]

theorem Constant.succ {b : Byte} {m k : Nat} (h : Constant b m k (b.getLsbD k)) :
    Constant b m (k + 1) (b.getLsbD k) := fun i hmi hik => by
  obtain old | rfl := Nat.lt_succ_iff_lt_or_eq.1 hik
  · exact h i hmi old
  · rfl

/-- What ends a serial frame: the countdown match, if the last data bit is 0 (spec/30_encoding.md R108). -/
def closing (b : Byte) : List Instr := if b.getLsbD 7 then [] else [.suMatch true]

/-- The rest of the serial frame from inside cell `k` on, with `m` bits recorded and the level constant since. -/
theorem runOps_cells {b : Byte} {t0 T : Nat} {s : State} (h : IdealTiming s.par t0 T) (room : s.fifo.length < 16) :
    ∀ (n k : Nat) (m : Fin 9), k + n = 8 → m.val ≤ k → Constant b m.val k (!cellLevel b k) →
      runOps (charEdges b t0 T (n + 1) (k + 1) (cellLevel b k) ++ closing b) (sampled b t0 m s) =
        .next (received b t0 s)
  | 0, k, m, hk, _, hc => by
    obtain rfl : k = 8 := hk
    have levelLast : cellLevel b 8 = !b.getLsbD 7 := cellLevel_data b (by decide)
    rw [levelLast, Bool.not_not] at hc
    rw [levelLast]
    cases one : b.getLsbD 7 with
    | true =>
      rw [one] at hc
      rw [charEdges_of_changed t0 T 0 (by simp [cellLevel]), closing, one]
      exact runOps_cons_of_next (exec_stopEdge h room hc) []
    | false =>
      rw [one] at hc
      rw [charEdges_of_same t0 T 0 (by simp [cellLevel]), closing, one]
      exact runOps_cons_of_next (exec_match room hc) []
  | n + 1, k, m, hk, hmk, hc => by
    have levelNext : cellLevel b (k + 1) = !b.getLsbD k := cellLevel_data b (by omega)
    by_cases same : cellLevel b (k + 1) = cellLevel b k
    · rw [charEdges_of_same t0 T (n + 1) same, ← same]
      refine runOps_cells h room n (k + 1) m (by omega) (by omega) ?_
      rw [← same, levelNext, Bool.not_not] at hc
      rw [levelNext, Bool.not_not]
      exact hc.succ
    · have level : cellLevel b (k + 1) = !cellLevel b k := Bool.eq_not.2 same
      rw [charEdges_of_changed t0 T (n + 1) same, List.cons_append,
        runOps_cons_of_next (exec_cellEdge h hmk (by omega) (level ▸ hc))]
      refine runOps_cells h room n (k + 1) _ (by omega) (Nat.le_succ k) ?_
      rw [levelNext, Bool.not_not]
      exact constant_self b k

/-- Settles O20: the start edge, and then cell by cell. -/
theorem idealSerialFrameDecodes : Obligations.IdealSerialFrameDecodes := by
  intro b t0 T s width phase period positive frameFits startFits hst room
  have timing : IdealTiming s.par t0 T := ⟨width, phase, period, positive, frameFits, startFits⟩
  have start : suCharm b t0 T =
      .suEdge false (cellStart t0 T 0) :: (charEdges b t0 T 9 1 (cellLevel b 0) ++ closing b) := rfl
  rw [start, runOps_cons_of_next (exec_startEdge timing hst b),
    runOps_cells timing room 8 0 0 rfl (Nat.le_refl 0) fun i _ hi => absurd hi (Nat.not_lt_zero i)]
  simp only [received, sampled, width]

end Sys2Proof.Machine
end

section
/-! PROOFS. The family 40_wiegand.md, one clock edge on the Wiegand line: it takes a bit, or it ends a byte. -/
namespace Sys2Proof.Machine

/-! ## The two edges -/

/-- An edge before the eighth writes the entry's registers and the framing (spec/40_wiegand.md R121, R123). -/
theorem exec_wgClk_partial (d : Bool) {s : State} (more : s.wgBit.val + 1 < 8) :
    exec (.wgClk d) s =
      .next { s with
        sleep := false, secs := 0
        wgAcc := if d then setBit s.wgAcc (7 - s.wgBit.val) else s.wgAcc
        wgBit := ⟨s.wgBit.val + 1, more⟩ } :=
  congrArg Host.Outcome.next (wgClock_partial (handlerEntry s) d more)

theorem setBit_zero (b : Byte) : setBit b 0 = b ||| 1#8 := rfl

/-- The eighth edge puts its level in bit 0 and hands the byte over (spec/40_wiegand.md R123, R124). -/
theorem exec_wgClk_eighth (d : Bool) {s : State} (hbit : s.wgBit.val = 7) :
    exec (.wgClk d) s = .next (byteTaken (if d then s.wgAcc ||| 1#8 else s.wgAcc) s) := by
  have last : ¬ (handlerEntry s).wgBit.val + 1 < 8 := by rw [handlerEntry_wgBit]; omega
  rw [exec_wgClk, wgClock_complete_eq (handlerEntry s) d last, handlerEntry_wgAcc, handlerEntry_wgBit, hbit,
    Nat.sub_self, setBit_zero]
  rfl

/-! ## The statements -/

/-- Settles O6. -/
theorem wgClkTakesOneBit : Obligations.WgClkTakesOneBit := by
  intro d s hbit
  have more : s.wgBit.val + 1 < 8 := by omega
  exact ⟨_, exec_wgClk_partial d more, rfl, rfl, getLsbD_levelTaken d s.wgAcc (by omega)⟩

/-- Settles O7: the eighth edge with room for its byte. -/
theorem wgClkEighthBitAppends : Obligations.WgClkEighthBitAppends := by
  intro d s hwf hbit room
  refine ⟨_, exec_wgClk_eighth d hbit, ?_⟩
  rw [byteTaken_of_room _ room]
  exact ⟨rfl, rfl, Memory.read_write hwf s.cnt.val _⟩

/-- Settles O8: the eighth edge with no room for its byte. -/
theorem wgClkFullBufferDiscards : Obligations.WgClkFullBufferDiscards := by
  intro d s hbit full
  rw [exec_wgClk_eighth d hbit, byteTaken_of_full _ full]

end Sys2Proof.Machine
end

section
/-!
PROOFS. The family 41_softuart.md: how many cells a transition ends, the byte it fills, and what the soft UART
does with a byte that is complete.
-/
namespace Sys2Proof.Machine

/-! ## Time and cells -/

/-- Settles O19. -/
theorem timerWrapIsHarmless : Obligations.TimerWrapIsHarmless := fun _ _ _ => elapsed_add_mod

/-- The elapsed time is the difference of the counts modulo the timer's range (spec/41_softuart.md R145). -/
theorem elapsed_eq_emod (p : Params) (t origin : Nat) :
    elapsed p t origin = (((t : Int) - (origin : Int)) % (2 ^ p.timerW : Int)).toNat := by
  have reduced : origin % 2 ^ p.timerW ≤ 2 ^ p.timerW := (Nat.mod_lt _ (Nat.two_pow_pos _)).le
  have whole : (t : Int) + (2 ^ p.timerW - origin % 2 ^ p.timerW) =
      t - origin % 2 ^ p.timerW + 2 ^ p.timerW := by ring
  have castElapsed : (elapsed p t origin : Int) = ((t : Int) - origin) % (2 ^ p.timerW : Int) := by
    rw [elapsed]
    push_cast [reduced]
    rw [whole, Int.add_emod_right, Int.sub_emod_emod]
  rw [← castElapsed, Int.toNat_natCast]

/-- The data cells at a transition, from the elapsed time `e` and the whole bit periods `c` in it
(spec/41_softuart.md R145, R149). -/
theorem cellsAt_eq {s : State} {t e c n : Nat}
    (he : e = (((t : Int) - (s.suOrigin : Int)) % (2 ^ s.par.timerW : Int)).toNat)
    (hc : c = (e * 2 ^ s.par.suFrac + s.par.suPhaseQ) / s.par.suTbitQ) (hn : n = min (c - 1) 8) :
    cellsAt t s = n := by
  rw [hn, hc, he, ← elapsed_eq_emod]
  rfl

/-! ## The byte filled -/

/-- The bits from `SU_BITS` up to `n` gain the value recorded, the others stay (spec/41_softuart.md R146, R152). -/
theorem getLsbD_suFill_suByte (v : Bool) {n : Nat} (hn : n ≤ 8) (s : State) (k : Nat) :
    (suFill v n hn s).suByte.getLsbD k =
      (s.suByte.getLsbD k || (v && decide (s.suBits.val ≤ k ∧ k < n))) := by
  have recorded := getLsbD_recordBits v (n - s.suBits.val) s.suBits.val s.suByte (by omega) k
  have range : (s.suBits.val ≤ k ∧ k < s.suBits.val + (n - s.suBits.val)) ↔ (s.suBits.val ≤ k ∧ k < n) := by omega
  simpa only [suFill, range] using recorded

/-! ## The byte emitted -/

/-- The serial frame whose byte is `b` is over and the byte is emitted (spec/41_softuart.md R147, R150 to R152). -/
def byteEmitted (b : Byte) (s : State) : State :=
  suEmit b { s with
    sleep := false, secs := 0, suBits := 8, suByte := b, suArmed := false, suState := .awaitStart }

theorem byteEmitted_of_room {s : State} (b : Byte) (room : s.fifo.length < 16) :
    byteEmitted b s = { s with
      sleep := false, secs := 0, suBits := 8, suByte := b, suArmed := false, suState := .awaitStart
      fifo := s.fifo ++ [b] } := if_pos room

theorem byteEmitted_of_full {s : State} (b : Byte) (full : s.fifo.length = 16) :
    byteEmitted b s = { s with
      sleep := false, secs := 0, suBits := 8, suByte := b, suArmed := false, suState := .awaitStart
      fault := 1#1 } := by
  have raised : s.fault ||| 1#1 = 1#1 := BitVec.or_allOnes
  rw [byteEmitted, suEmit, if_neg full.not_lt, raiseOverrun, raised]

theorem byteEmitted_suState (b : Byte) (s : State) : (byteEmitted b s).suState = .awaitStart := by
  obtain ⟨_, e⟩ | ⟨_, e⟩ := suEmit_cases _ b
  all_goals exact congrArg State.suState e

theorem suAwait_suEmit (b : Byte) (s : State) : suAwait (suEmit b s) = suEmit b (suAwait s) :=
  apply_ite suAwait _ _ _

/-- `SECS` may be cleared before the byte is emitted, as SU.EDGE does, or after it, as SU.MATCH does
(spec/41_softuart.md R148, R152). -/
theorem clearSecs_suFinish (s : State) : clearSecs (suFinish s) = suFinish (clearSecs s) := by
  simp only [suFinish, suAwait_suEmit]
  exact apply_ite clearSecs _ _ _

/-- A byte whose eight bits are taken is emitted, whichever handler took the last one. -/
theorem suFinish_suFill_of_complete {s : State} (v : Bool) {n : Nat} (hn : n ≤ 8) (full : max s.suBits.val n = 8) :
    suFinish (suFill v n hn (clearSecs (handlerEntry s))) = byteEmitted (suFill v n hn s).suByte s := by
  have bits : (⟨max s.suBits.val n, by omega⟩ : Fin 9) = 8 := Fin.ext full
  rw [suFinish, suAwait_suEmit, byteEmitted, ← bits]
  rfl

/-! ## A transition while sampling -/

/-- A transition at the eighth data bit completes the byte, and a high-to-low one is the next start edge
(spec/41_softuart.md R147, R148). -/
theorem exec_suEdge_completes {s : State} {lv : Bool} {t : BitVec 16} {n : Nat} (fits : t.toNat < 2 ^ s.par.timerW)
    (hst : s.suState = .sampling) (hn : cellsAt t.toNat s = n) (n8 : n ≤ 8) (full : max s.suBits.val n = 8) :
    exec (.suEdge lv t) s = .next
      (if lv then byteEmitted (suFill lv n n8 s).suByte s
      else suStart t.toNat (byteEmitted (suFill lv n n8 s).suByte s)) := by
  subst hn
  have sampled : suSample lv t.toNat (clearSecs (handlerEntry s)) =
      byteEmitted (suFill lv (cellsAt t.toNat s) n8 s).suByte s :=
    (if_pos full).trans (suFinish_suFill_of_complete lv n8 full)
  refine (exec_suEdge_next_iff s lv t _).2 ⟨fits, ?_⟩
  rw [suEdge_sampling (handlerEntry s) lv _ hst, sampled, byteEmitted_suState]
  cases lv <;> rfl

/-- Settles O13. -/
theorem transitionRecordsElapsedCells : Obligations.TransitionRecordsElapsedCells := by
  intro lv t s e c n fits hst he hc hn short
  have n8 : n ≤ 8 := by omega
  have records : suEdge lv t.toNat (handlerEntry s) = suFill lv n n8 (clearSecs (handlerEntry s)) :=
    suEdge_records (s := handlerEntry s) hst (cellsAt_eq he hc hn) n8 short.ne
  exact ⟨_, (exec_suEdge_next_iff s lv t _).2 ⟨fits, records.symm⟩, rfl, rfl, getLsbD_suFill_suByte lv n8 s⟩

/-- Settles O14: the byte is emitted, and there is room for it. -/
theorem transitionCompletesTheByte : Obligations.TransitionCompletesTheByte := by
  intro lv t s e c n fits hst he hc hn full room
  have n8 : n ≤ 8 := by omega
  refine ⟨_, getLsbD_suFill_suByte lv n8 s, ?_⟩
  rw [exec_suEdge_completes fits hst (cellsAt_eq he hc hn) n8 full, byteEmitted_of_room _ room]
  rfl

/-! ## The countdown match -/

/-- An armed countdown match takes the bits that are missing and emits the byte (spec/41_softuart.md R152). -/
theorem exec_suMatch_armed {s : State} (lv : Bool) (armed : s.suArmed = true) :
    exec (.suMatch lv) s = .next (byteEmitted (suFill (!lv) 8 (Nat.le_refl 8) s).suByte s) := by
  have full : max s.suBits.val 8 = 8 := by omega
  rw [exec_suMatch, suMatch_armed (handlerEntry s) lv armed, clearSecs_suFinish]
  exact congrArg Host.Outcome.next (suFinish_suFill_of_complete (!lv) (Nat.le_refl 8) full)

/-- Settles O15: the byte is emitted, and there is room for it. -/
theorem matchCompletesTheByte : Obligations.MatchCompletesTheByte := by
  intro lv s armed room
  refine ⟨_, getLsbD_suFill_suByte (!lv) (Nat.le_refl 8) s, ?_⟩
  rw [exec_suMatch_armed lv armed, byteEmitted_of_room _ room]

/-- Settles O16. -/
theorem spuriousMatchOnlyWakes : Obligations.SpuriousMatchOnlyWakes := by
  intro lv s unarmed
  rw [exec_suMatch, suMatch_unarmed (handlerEntry s) lv unarmed]
  rfl

/-- Settles O17: the byte is emitted by either handler, and there is no room for it. -/
theorem fullFifoDropsTheByte : Obligations.FullFifoDropsTheByte := by
  constructor
  · intro lv s armed noRoom
    refine ⟨_, getLsbD_suFill_suByte (!lv) (Nat.le_refl 8) s, ?_⟩
    rw [exec_suMatch_armed lv armed, byteEmitted_of_full _ noRoom]
  · intro lv t s e c n fits hst he hc hn full noRoom
    have n8 : n ≤ 8 := by omega
    refine ⟨_, getLsbD_suFill_suByte lv n8 s, ?_⟩
    rw [exec_suEdge_completes fits hst (cellsAt_eq he hc hn) n8 full, byteEmitted_of_full _ noRoom]
    rfl

/-! ## A transition while awaiting a start edge -/

/-- Settles O11. -/
theorem risingEdgeIsNoStart : Obligations.RisingEdgeIsNoStart := fun t s fits hst =>
  (exec_suEdge_next_iff s true t _).2 ⟨fits, (suEdge_await (handlerEntry s) true _ hst).symm⟩

/-- Settles O12. -/
theorem fallingEdgeStartsAFrame : Obligations.FallingEdgeStartsAFrame := fun t s fits hst =>
  (exec_suEdge_next_iff s false t _).2 ⟨fits, (suEdge_await (handlerEntry s) false _ hst).symm⟩

end Sys2Proof.Machine
end

section
/-!
SUPPORT. The assembler's units of work where the rules select them: the chip poll and the session end.
-/
namespace Sys2Proof.Machine

/-- A byte string of at most 256 bytes fits the buffer from index 0 on. -/
theorem fits_buf {bs : List Byte} (h : bs.length ≤ 256) : 0 + bs.length ≤ Space.size .buf := by
  rwa [Nat.zero_add]

/-- The bytes read at ascending indices, one by one. -/
theorem Memory.getD_bytes (sp : Space) (m : Memory) (i : Nat) {n k : Nat} (hk : k < n) :
    (Memory.bytes sp m i n).getD k 0#8 = Memory.read sp m (i + k) := by
  simp [Memory.bytes, hk]

/-! ## The chip poll -/

/-- With nothing but a tick pending, SC.CYCLE polls (spec/44_scheduler.md R231). -/
theorem selectedWhen_tick1_of_evf {s : State} (hphase : s.scPhase = .top) (hevf : s.evf = 2#3)
    (hfifo : s.fifo = []) : SelectedWhen s .tick1 := by
  simp [SelectedWhen, flagSet, flagBit, State.fifoCnt, hphase, hevf, hfifo]

/-- SC.TICK1 where the rules select it (spec/44_scheduler.md R249). -/
theorem exec_scTick1_of_selected {s : State} (awake : s.sleep = false) (selected : SelectedWhen s .tick1) :
    exec .scTick1 s = .next (branchTick1 s) :=
  exec_branchOperation_of_selectedWhen s (b := .tick1) awake selected

/-- A poll that finds a card's identifier and an empty buffer commits it (spec/42_assembler.md R185, R186). -/
theorem exec_scTick1_commits {s : State} {id : List Byte} (awake : s.sleep = false)
    (selected : SelectedWhen s .tick1) (present : s.card = some id) (contract : inContract s.par id = true)
    (empty : s.cnt.val = 0) :
    exec .scTick1 s =
      .next { s with
        buf := Memory.writeFrom .buf s.buf 0 id
        cnt := ⟨id.length, Nat.lt_of_le_of_lt (length_of_inContract contract) (by decide)⟩
        act := s.act ++ [.blink3], scPhase := .tick2 } := by
  obtain ⟨id', _, present', -, -, e⟩ | ⟨none, -⟩ := chipPoll_cases s
  · obtain rfl : id = id' := Option.some.inj (present.symm.trans present')
    rw [exec_scTick1_of_selected awake selected, branchTick1, e]
    rfl
  · exact absurd ⟨contract, empty⟩ (none id present)

/-- A poll that finds no identifier in the contract, or a session open, writes `SC_PHASE` alone
(spec/42_assembler.md R187). -/
theorem exec_scTick1_passes {s : State} (awake : s.sleep = false) (selected : SelectedWhen s .tick1)
    (nothing : ∀ id, s.card = some id → ¬ (inContract s.par id = true ∧ s.cnt.val = 0)) :
    exec .scTick1 s = .next { s with scPhase := .tick2 } := by
  obtain ⟨id, _, present, contract, empty, -⟩ | ⟨-, e⟩ := chipPoll_cases s
  · exact absurd ⟨contract, empty⟩ (nothing id present)
  · rw [exec_scTick1_of_selected awake selected, branchTick1, e]
    rfl

/-! ## The session end -/

/-- No session ends: the flag is cleared (spec/42_assembler.md R189). -/
theorem branchAppend_of_no_end {s : State} (noEnd : sentinelLast s = false) :
    branchAppend s = { s with evf := s.evf &&& 3#3 } := by
  obtain ⟨-, e⟩ | ⟨ends, -⟩ | ⟨ends, -⟩ := sessionEndCheck_cases s
  · rw [branchAppend, e]
    rfl
  · exact absurd (noEnd.symm.trans ends) nofun
  · exact absurd (noEnd.symm.trans ends) nofun

/-- A session too short to be hashed ends without a line (spec/42_assembler.md R189). -/
theorem branchAppend_short {s : State} (ends : sentinelLast s = true) (short : s.cnt.val < 10) :
    branchAppend s = { s with evf := s.evf &&& 3#3, buf := [], cnt := 0 } := by
  obtain ⟨no, -⟩ | ⟨-, long, -⟩ | ⟨-, -, e⟩ := sessionEndCheck_cases s
  · exact absurd (no.symm.trans ends) nofun
  · exact absurd short (Nat.not_lt_of_le long)
  · rw [branchAppend, e]
    rfl

/-- When no session ends: nothing is committed, or the last byte is no sentinel (spec/42_assembler.md R188). -/
theorem sentinelLast_eq_false_iff (s : State) :
    sentinelLast s = false ↔ s.cnt.val = 0 ∨ Memory.read .buf s.buf (s.cnt.val - 1) ≠ s.par.wgSentinel := by
  rw [← Bool.not_eq_true, sentinelLast_iff, not_and_or, Nat.pos_iff_ne_zero, not_ne_iff]

theorem bufMessage_eq (s : State) : bufMessage s = (List.range 256).map (fun i => Memory.read .buf s.buf i) := by
  simp [bufMessage, Memory.bytes]

end Sys2Proof.Machine
end

section
/-! PROOFS. The family 42_assembler.md, card frames: a frame is started, collected, and committed or discarded. -/
namespace Sys2Proof.Machine

/-- Settles O22. -/
theorem frameStartRestartsCollection : Obligations.FrameStartRestartsCollection := fun s => exec_frmStx s

/-- Settles O23: by the three outcomes of a data byte, of which each hypothesis leaves one. -/
theorem frameDataIsCollected : Obligations.FrameDataIsCollected := by
  intro b s hwf
  rw [exec_frmData]
  obtain ⟨room, collecting, e⟩ | ⟨full, collecting, e⟩ | ⟨idle, e⟩ := frameData_cases s b
  all_goals rw [e]
  · exact ⟨fun _ _ => ⟨_, rfl, rfl, rfl, Memory.read_write hwf _ b⟩,
      fun _ full => absurd room (Nat.not_lt_of_le full), fun idle => absurd (collecting.symm.trans idle) nofun⟩
  · exact ⟨fun _ room => absurd room (Nat.not_lt_of_le full), fun _ _ => rfl,
      fun idle => absurd (collecting.symm.trans idle) nofun⟩
  · exact ⟨fun collecting => absurd (collecting.symm.trans idle) nofun,
      fun collecting => absurd (collecting.symm.trans idle) nofun, fun _ => rfl⟩

/-- Settles O24: the conditions are those of `frame_valid()`, and the ten characters are written in order. -/
theorem validFrameCommitsTenCharacters : Obligations.ValidFrameCommitsTenCharacters := by
  intro s hwf collecting hlen hcnt hex hxor hcr hlf
  have valid : frameValid s = true :=
    (frameValid_iff s).2 ⟨hlen, hcnt, hex, (frameXor_eq_pairXor s).trans hxor, hcr, hlf⟩
  obtain ⟨-, -, e⟩ | ⟨discarded, -⟩ := frameEnd_cases s
  · have ten : (frameId s).length = 10 := Memory.length_bytes .frm s.frm 0 10
    have fits : (frameId s).length ≤ 256 := by omega
    refine ⟨_, exec_frmEtx s, by rw [e], fun a => ?_⟩
    rw [e, Memory.read_writeFrom _ hwf (fits_buf fits), ten]
    by_cases ha : a < 10
    · simp only [ha, Nat.zero_le, Nat.zero_add, and_self, if_true, Nat.sub_zero, frameId, Memory.getD_bytes]
    · simp [ha]
  · exact absurd ⟨collecting, valid⟩ discarded

/-- Settles O25: each condition violated is one that `frame_valid()`, or collecting, asks for. -/
theorem invalidFrameIsDiscarded : Obligations.InvalidFrameIsDiscarded := by
  intro s violated
  obtain ⟨collecting, valid, -⟩ | ⟨-, e⟩ := frameEnd_cases s
  · exfalso
    obtain ⟨hlen, hcnt, hex, hxor, hcr, hlf⟩ := (frameValid_iff s).1 valid
    obtain idle | len | cnt | ⟨i, hi, bad⟩ | xor | cr | lf := violated
    · exact absurd (collecting.symm.trans idle) nofun
    · exact len hlen
    · exact cnt hcnt
    · exact absurd (hex i hi) (by simp [frmAt, bad])
    · exact xor ((frameXor_eq_pairXor s).symm.trans hxor)
    · exact cr hcr
    · exact lf hlf
  · rw [exec_frmEtx, e]

end Sys2Proof.Machine
end

section
/-! PROOFS. The family 42_assembler.md, the chip poll, the session end, and the race of a poll with a byte. -/
namespace Sys2Proof.Machine

/-- Settles O28. -/
theorem chipPollCommitsIffEmpty : Obligations.ChipPollCommitsIffEmpty := by
  intro s awake hphase hrx hfifo happ htick hwf
  have selected : SelectedWhen s .tick1 := ⟨hphase, hrx, (fifoCnt_eq_zero_iff s).2 hfifo, happ, htick⟩
  constructor
  · intro id present nonempty short empty
    have contract : inContract s.par id = true := (inContract_iff s.par id).2 ⟨nonempty, short⟩
    have fits : id.length ≤ 256 := Nat.le_succ_of_le (length_of_inContract contract)
    refine ⟨_, exec_scTick1_commits awake selected present contract empty, rfl, rfl, fun a => ?_⟩
    simpa using Memory.read_writeFrom id hwf (fits_buf fits) a
  · intro missing
    refine exec_scTick1_passes awake selected fun id present => ?_
    rw [inContract_iff]
    rintro ⟨⟨nonempty, short⟩, empty⟩
    obtain none | occupied | ⟨id', present', outside⟩ := missing
    · exact absurd (present.symm.trans none) nofun
    · exact occupied empty
    · obtain rfl : id = id' := Option.some.inj (present.symm.trans present')
      omega

/-- Settles O29. -/
theorem sessionEndHasThreeOutcomes : Obligations.SessionEndHasThreeOutcomes := by
  intro s awake hphase hrx hfifo happ
  rw [exec_scAppend_of_selected awake hphase hrx hfifo happ, ← bufMessage_eq]
  refine ⟨fun no => ?_, fun nonempty sentinel short => ?_, fun sentinel long => ?_⟩
  · rw [branchAppend_of_no_end ((sentinelLast_eq_false_iff s).2 no)]
  · rw [branchAppend_short ((sentinelLast_iff s).2 ⟨nonempty, sentinel⟩) short]
  · rw [branchAppend_hashed long sentinel]

/-! ## The race of a byte and a poll -/

/-- The eighth edge hands over the byte that the seven bits taken and its level make (spec/40_wiegand.md R124). -/
theorem exec_wgClk_byte {d : Bool} {b : Byte} {s : State} (hbit : s.wgBit.val = 7)
    (hb : b = if d then s.wgAcc ||| 1#8 else s.wgAcc) : exec (.wgClk d) s = .next (byteTaken b s) :=
  hb ▸ exec_wgClk_eighth d hbit

theorem appended_cleared : 6#3 &&& 3#3 = 2#3 := by decide

/-- The byte comes first: it leaves a session open, which neither the session-end check nor the poll touches
(spec/42_assembler.md R194). -/
theorem runOps_byte_then_poll {d : Bool} {b : Byte} {s : State} (hphase : s.scPhase = .top) (hevf : s.evf = 2#3)
    (hfifo : s.fifo = []) (hbuf : s.buf = []) (hcnt : s.cnt.val = 0)
    (taken : exec (.wgClk d) s = .next (byteTaken b s)) (other : b ≠ s.par.wgSentinel) :
    ∃ t, runOps [.wgClk d, .scAppend, .scTick1] s = .next t ∧ t.cnt.val = 1 ∧ t.act = s.act ∧
      Memory.read .buf t.buf 0 = b := by
  rw [runOps_cons_of_next taken]
  have byte := byteTaken_of_room b (s := s) (by omega)
  simp only [hbuf, hcnt, hevf, BitVec.reduceOr] at byte
  generalize byteTaken b s = t at byte ⊢
  have cnt : t.cnt.val = 1 := by rw [byte]
  have evf : t.evf = 6#3 := by rw [byte]
  have phase : t.scPhase = .top := by rw [byte, hphase]
  have fifo : t.fifo = [] := by rw [byte, hfifo]
  have awake : t.sleep = false := by rw [byte]
  have stored : Memory.read .buf t.buf 0 = b := by
    rw [byte]
    exact read_writeFrom_filler (B := [b]) (Nat.le_add_left 1 255) 0
  have noEnd : sentinelLast t = false :=
    (sentinelLast_eq_false_iff t).2 (.inr (by rw [cnt, stored, byte]; exact other))
  have append : exec .scAppend t = .next { t with evf := 2#3 } := by
    rw [exec_scAppend_of_selected awake phase (by simp [flagSet, flagBit, evf]) fifo
      (by simp [flagSet, flagBit, evf]), branchAppend_of_no_end noEnd, evf, appended_cleared]
  have poll : exec .scTick1 { t with evf := 2#3 } = .next { t with evf := 2#3, scPhase := .tick2 } :=
    exec_scTick1_passes awake (selectedWhen_tick1_of_evf phase rfl fifo)
      fun _ _ found => absurd (cnt.symm.trans found.2) (by decide)
  rw [runOps_cons_of_next append, runOps_cons_of_next poll]
  exact ⟨_, rfl, cnt, by rw [byte], stored⟩

/-- The poll comes first: the identifier it commits leaves room for the byte behind it
(spec/42_assembler.md R194). -/
theorem runOps_poll_then_byte {d : Bool} {id : List Byte} {b : Byte} {s : State} (awake : s.sleep = false)
    (selected : SelectedWhen s .tick1) (hbuf : s.buf = []) (hcnt : s.cnt.val = 0) (hbit : s.wgBit.val = 7)
    (hb : b = if d then s.wgAcc ||| 1#8 else s.wgAcc) (present : s.card = some id)
    (contract : inContract s.par id = true) (room : id.length < 255) :
    ∃ t, runOps [.scTick1, .wgClk d] s = .next t ∧ t.cnt.val = id.length + 1 ∧ t.act = s.act ++ [.blink3] ∧
      Memory.read .buf t.buf id.length = b ∧ ∀ a, a < id.length → Memory.read .buf t.buf a = id.getD a 0#8 := by
  have commits := exec_scTick1_commits awake selected present contract hcnt
  have form : Memory.wf .buf (Memory.writeFrom .buf [] 0 id) = true :=
    Memory.wf_writeFrom id (Memory.wf_nil .buf) (fits_buf (by omega))
  refine ⟨_, (runOps_cons_of_next commits _).trans (runOps_cons_of_next (exec_wgClk_byte (b := b) ?_ ?_) []), ?_⟩
  · exact hbit
  · exact hb
  rw [byteTaken_of_room b (by exact room), hbuf]
  refine ⟨rfl, rfl, (Memory.read_write form _ b _).trans (if_pos rfl), fun a ha => ?_⟩
  refine (Memory.read_write form _ b a).trans ?_
  rw [if_neg (Nat.ne_of_lt ha), read_writeFrom_filler (by omega), if_pos ha]

/-- Settles O50. -/
theorem raceDecidedByOrder : Obligations.RaceDecidedByOrder := by
  intro d id b s awake hphase hevf hfifo hbuf hcnt hbit hb other present nonempty short room
  have contract : inContract s.par id = true := (inContract_iff s.par id).2 ⟨nonempty, short⟩
  exact ⟨runOps_byte_then_poll hphase hevf hfifo hbuf hcnt (exec_wgClk_byte hbit hb) other,
    runOps_poll_then_byte awake (selectedWhen_tick1_of_evf hphase hevf hfifo) hbuf hcnt hbit hb present contract
      room⟩

end Sys2Proof.Machine
end

section
/-!
PROOFS. The family 42_assembler.md, a silent block: what serving one tick does, and what any number of ticks add up
to.
-/
namespace Sys2Proof.Machine

/-! ## Serving a tick -/

/-- The block as after reset, but for what has been sent, the count of ticks and whether it sleeps. -/
def silentBlock (p : Params) (sent : List Byte) (secs : Nat) (asleep : Bool) : State :=
  { State.resetWith p with tx := sent, secs := secs, sleep := asleep }

theorem tick_cleared : 2#3 &&& 5#3 = 0#3 := by decide

/-- Serving the pending tick of a silent block polls in vain, asks for the idle timeout, and idles
(spec/44_scheduler.md R234, R249, R250). -/
theorem runOps_tickService (p : Params) (sent : List Byte) (secs : Nat) :
    runOps [.scTick1, .scTick2, .scIdle] { silentBlock p sent secs false with evf := 2#3 } =
      .next (if p.timeoutTicks < secs then silentBlock p (sent ++ aliveLine) 0 true
        else silentBlock p sent secs true) := by
  have poll : exec .scTick1 { silentBlock p sent secs false with evf := 2#3 } =
      .next { silentBlock p sent secs false with evf := 2#3, scPhase := .tick2 } :=
    exec_scTick1_passes rfl (selectedWhen_tick1_of_evf rfl rfl rfl) (fun _ present => absurd present nofun)
  have idle (sent : List Byte) (secs : Nat) :
      exec .scIdle (silentBlock p sent secs false) = .next (silentBlock p sent secs true) :=
    exec_branchOperation_of_selectedWhen _ (b := .idle) rfl ⟨rfl, rfl, rfl⟩
  obtain ⟨fires, waits⟩ := idleTimeoutFiresPastTheThreshold
    { silentBlock p sent secs false with evf := 2#3, scPhase := .tick2 } rfl rfl
  rw [runOps_cons_of_next poll]
  by_cases late : p.timeoutTicks < secs
  · rw [if_pos late, runOps_cons_of_next (fires late), tick_cleared]
    exact runOps_cons_of_next (idle (sent ++ aliveLine) 0) []
  · rw [if_neg late, runOps_cons_of_next (waits (Nat.le_of_not_lt late)), tick_cleared]
    exact runOps_cons_of_next (idle sent secs) []

/-- A tick of a silent block and its service (spec/44_scheduler.md R236). -/
theorem runOps_tickServed {p : Params} (sent : List Byte) {secs : Nat} (asleep : Bool)
    (fits : secs + 1 < 2 ^ p.secsW) :
    runOps [.tkTick, .scTick1, .scTick2, .scIdle] (silentBlock p sent secs asleep) =
      .next (if p.timeoutTicks < secs + 1 then silentBlock p (sent ++ aliveLine) 0 true
        else silentBlock p sent (secs + 1) true) := by
  have tick : exec .tkTick (silentBlock p sent secs asleep) =
      .next { silentBlock p sent (secs + 1) false with evf := 2#3 } := by
    have counted : (secs + 1) % 2 ^ p.secsW = secs + 1 := Nat.mod_eq_of_lt fits
    rw [exec_tkTick_eq]
    simp only [silentBlock, State.resetWith, counted, BitVec.zero_or]
  rw [runOps_cons_of_next tick, runOps_tickService]

/-! ## Any number of ticks -/

/-- A silent block after `n` ticks, each served as it came: it has reported at every tick whose number is a
multiple of `TIMEOUT_TICKS + 1` (spec/95_test_vectors.md T5). -/
def silentAfter (p : Params) (n : Nat) : State :=
  silentBlock p (List.replicate (n / (p.timeoutTicks + 1)) aliveLine).flatten (n % (p.timeoutTicks + 1))
    (decide (0 < n))

/-- One more tick reports, or counts. -/
theorem silentAfter_succ (p : Params) (n : Nat) :
    silentAfter p (n + 1) =
      if p.timeoutTicks < n % (p.timeoutTicks + 1) + 1 then
        silentBlock p ((List.replicate (n / (p.timeoutTicks + 1)) aliveLine).flatten ++ aliveLine) 0 true
      else
        silentBlock p (List.replicate (n / (p.timeoutTicks + 1)) aliveLine).flatten
          (n % (p.timeoutTicks + 1) + 1) true := by
  by_cases last : n % (p.timeoutTicks + 1) = p.timeoutTicks
  · have remainder : (n + 1) % (p.timeoutTicks + 1) = 0 := Nat.succ_mod_succ_eq_zero_iff.2 last
    have quotient := Nat.succ_div_of_dvd (Nat.dvd_of_mod_eq_zero remainder)
    simp [silentAfter, last, quotient, remainder, List.replicate_succ']
  · have quotient := Nat.succ_div_of_mod_ne_zero (mt Nat.succ_mod_succ_eq_zero_iff.1 last)
    have below : n % (p.timeoutTicks + 1) < p.timeoutTicks + 1 := Nat.mod_lt n (Nat.succ_pos _)
    have one : 1 % (p.timeoutTicks + 1) = 1 := Nat.mod_eq_of_lt (by omega)
    have remainder : (n + 1) % (p.timeoutTicks + 1) = n % (p.timeoutTicks + 1) + 1 := by
      rw [Nat.add_mod_of_add_mod_lt (by omega), one]
    have early : ¬ p.timeoutTicks < n % (p.timeoutTicks + 1) + 1 := by omega
    simp [silentAfter, early, quotient, remainder]

/-- Ticks served as they come (spec/70_reset_and_hazards.md R322). -/
theorem runOps_ticksServed {p : Params} (hp : p.wf) : ∀ n : Nat,
    runOps (List.replicate n [.tkTick, .scTick1, .scTick2, .scIdle]).flatten (State.resetWith p) =
      .next (silentAfter p n)
  | 0 => by simp [silentAfter, silentBlock, State.resetWith]
  | n + 1 => by
    have ⟨_, width, _⟩ := hp
    have below : n % (p.timeoutTicks + 1) < p.timeoutTicks + 1 := Nat.mod_lt n (Nat.succ_pos _)
    rw [List.replicate_succ', List.flatten_append, List.flatten_singleton,
      runOps_append_of_next (runOps_ticksServed hp n), silentAfter_succ]
    exact runOps_tickServed _ _ (by omega)

/-- Ticks that are pending together are served as one (spec/44_scheduler.md R253). -/
theorem runOps_ticksTogether {p : Params} {n : Nat} (pos : 0 < n) (fits : n < 2 ^ p.secsW) :
    runOps (ticks n ++ [.scTick1, .scTick2, .scIdle]) (State.resetWith p) =
      .next (if p.timeoutTicks < n then silentBlock p aliveLine 0 true else silentBlock p [] n true) := by
  have counted : runOps (ticks n) (State.resetWith p) = .next { silentBlock p [] n false with evf := 2#3 } := by
    have count : (0 + n) % 2 ^ p.secsW = n := by rw [Nat.zero_add, Nat.mod_eq_of_lt fits]
    rw [ticksCoalesce n _ pos]
    simp only [silentBlock, State.resetWith, count, BitVec.zero_or]
  rw [runOps_append_of_next counted, runOps_tickService, List.nil_append]

/-- Settles O33. -/
theorem silentBlockSendsAlive : Obligations.SilentBlockSendsAlive := by
  intro p n hp pos
  constructor
  · intro fits
    rw [runOps_ticksTogether pos fits]
    by_cases late : p.timeoutTicks < n
    · simp only [late, if_true]
      rfl
    · simp only [late, if_false]
      rfl
  · rw [runOps_ticksServed hp, silentAfter, decide_eq_true pos]
    rfl

end Sys2Proof.Machine
end

section
/-!
PROOFS. The family 43_digest.md: what an `update` of a block hash makes of any context with a partial block, that the
split of a message does not matter, and the characters of the hash line.
-/
namespace Sys2Proof.Machine

/-! ## An update from any partial block -/

/-- A full block in front is compressed first. -/
theorem compressAll_append_of_block (h : BlockHash) (v : BitVec 160) {block : List Byte} (rest : List Byte)
    (full : block.length = Config.digestBlock) :
    compressAll h v (block ++ rest) = compressAll h (hashCompress h v block) rest := by
  have blocks : (block ++ rest).length / Config.digestBlock = rest.length / Config.digestBlock + 1 := by
    rw [List.length_append, full, Nat.add_div_left _ (by decide)]
  rw [compressAll, blocks, compressBlocks, List.take_left' full, List.drop_left' full, compressAll]

/-- What is left of a byte string behind its whole blocks (spec/43_digest.md R213). -/
def partialBlock (m : List Byte) : List Byte := m.drop (Config.digestBlock * (m.length / Config.digestBlock))

/-- A full block in front leaves nothing behind. -/
theorem partialBlock_append_of_block {block : List Byte} (rest : List Byte)
    (full : block.length = Config.digestBlock) : partialBlock (block ++ rest) = partialBlock rest := by
  rw [partialBlock, List.length_append, full, Nat.add_div_left _ (by decide), Nat.mul_succ, Nat.add_comm,
    ← List.drop_drop, List.drop_left' full, partialBlock]

/-- The context after an `update` with `bs`: the whole blocks of the buffer and `bs` compressed, the rest
in the block buffer, the bytes of `bs` counted (spec/43_digest.md R213). -/
def updatedContext (h : BlockHash) (c : DigestContext) (bs : List Byte) : DigestContext :=
  ⟨compressAll h c.hash (c.block ++ bs), partialBlock (c.block ++ bs), c.length + bs.length⟩

theorem updatedContext_nil (h : BlockHash) {c : DigestContext} (short : c.block.length < Config.digestBlock) :
    updatedContext h c [] = c := by
  simp [updatedContext, compressAll, partialBlock, Nat.div_eq_of_lt short, compressBlocks]

/-- A byte that does not fill the block buffer waits in it. -/
theorem absorbByte_of_room (h : BlockHash) {c : DigestContext} (b : Byte)
    (room : c.block.length + 1 ≠ Config.digestBlock) :
    absorbByte h c b = ⟨c.hash, c.block ++ [b], c.length + 1⟩ := if_neg room

/-- A byte that fills the block buffer has it compressed and empties it. -/
theorem absorbByte_of_full (h : BlockHash) {c : DigestContext} (b : Byte)
    (full : c.block.length + 1 = Config.digestBlock) :
    absorbByte h c b = ⟨hashCompress h c.hash (c.block ++ [b]), [], c.length + 1⟩ := if_pos full

/-- The block buffer never holds a full block. -/
theorem absorbByte_block_short (h : BlockHash) {c : DigestContext} (b : Byte)
    (short : c.block.length < Config.digestBlock) : (absorbByte h c b).block.length < Config.digestBlock := by
  by_cases full : c.block.length + 1 = Config.digestBlock
  · rw [absorbByte_of_full h b full]
    exact (by decide : 0 < Config.digestBlock)
  · rw [absorbByte_of_room h b full, List.length_append, List.length_singleton]
    omega

/-- The first byte of an `update` may as well be given before it. -/
theorem updatedContext_absorbByte (h : BlockHash) (c : DigestContext) (b : Byte) (bs : List Byte) :
    updatedContext h (absorbByte h c b) bs = updatedContext h c (b :: bs) := by
  have bytes : c.block ++ b :: bs = c.block ++ [b] ++ bs := List.append_cons _ _ _
  have count : c.length + 1 + bs.length = c.length + (b :: bs).length := by rw [List.length_cons]; omega
  simp only [updatedContext, bytes, ← count]
  by_cases full : c.block.length + 1 = Config.digestBlock
  · have block : (c.block ++ [b]).length = Config.digestBlock := by
      rw [List.length_append, List.length_singleton, full]
    rw [absorbByte_of_full h b full, compressAll_append_of_block h _ _ block, partialBlock_append_of_block _ block,
      List.nil_append]
  · rw [absorbByte_of_room h b full]

theorem digestUpdate_of_short (h : BlockHash) : ∀ (bs : List Byte) {c : DigestContext},
    c.block.length < Config.digestBlock → digestUpdate (.blockHash h) c bs = updatedContext h c bs
  | [], _, short => (updatedContext_nil h short).symm
  | b :: bs, c, short =>
    calc digestUpdate (.blockHash h) c (b :: bs)
      _ = digestUpdate (.blockHash h) (absorbByte h c b) bs := rfl
      _ = updatedContext h (absorbByte h c b) bs := digestUpdate_of_short h bs (absorbByte_block_short h b short)
      _ = updatedContext h c (b :: bs) := updatedContext_absorbByte h c b bs

/-! ## Any split of a message -/

theorem digestUpdate_nil (f : DigestFn) (c : DigestContext) : digestUpdate f c [] = c := by
  cases f with
  | blockHash h => rfl
  | unnamed n => simp [digestUpdate]

/-- Any number of updates are one update with all their bytes (spec/43_digest.md R213). -/
theorem foldl_digestUpdate (f : DigestFn) : ∀ (parts : List (List Byte)) (c : DigestContext),
    parts.foldl (digestUpdate f) c = digestUpdate f c parts.flatten
  | [], c => (digestUpdate_nil f c).symm
  | p :: parts, c => by
    rw [List.foldl_cons, foldl_digestUpdate f parts, digestUpdate_append, List.flatten_cons]

theorem digestInit_fresh (f : DigestFn) : (digestInit f).block = [] ∧ (digestInit f).length = 0 := by
  cases f with
  | blockHash h => exact ⟨rfl, rfl⟩
  | unnamed n => exact ⟨rfl, rfl⟩

/-- Settles O57: by induction on the list of parts for the contract, and on the bytes of the update for the
context. -/
theorem digestSplitsFreely : Obligations.DigestSplitsFreely := by
  refine ⟨fun f parts => ?_, digestInit_fresh, fun _ => rfl, fun h _ bs short => digestUpdate_of_short h bs short⟩
  rw [foldl_digestUpdate]
  exact dgHash_eq f parts.flatten

/-! ## The characters of the hash line -/

/-- `hexchar` writes what `hexval` reads (spec/30_encoding.md R101, R102). -/
theorem hexval_hexchar : ∀ n : BitVec 4, hexval (hexchar n) = some n := by decide

/-- Two characters for each byte. -/
theorem length_flatMap_hexOfByte (bs : List Byte) : (bs.flatMap hexOfByte).length = 2 * bs.length := by
  have two (b : Byte) : (hexOfByte b).length = 2 := rfl
  simp [List.length_flatMap, two, Nat.mul_comm]

/-- Behind the characters of the first `j` bytes stand those of the others. -/
theorem drop_flatMap_hexOfByte : ∀ (j : Nat) (bs : List Byte),
    (bs.flatMap hexOfByte).drop (2 * j) = (bs.drop j).flatMap hexOfByte
  | 0, _ => rfl
  | j + 1, [] => by simp
  | j + 1, _ :: bs => drop_flatMap_hexOfByte j bs

theorem length_hashLine (g : Vector Byte 20) : (hashLine g).length = 46 := by
  rw [hashLine, List.length_append, List.length_append, length_flatMap_hexOfByte, Vector.length_toList]
  rfl

/-- Behind the literal and the characters of `j` digest bytes stand the two characters of byte `j`
(spec/43_digest.md R216). -/
theorem drop_hashLine (g : Vector Byte 20) {j : Nat} (hj : j < 20) : ∃ rest,
    (hashLine g).drop (hashText.length + 2 * j) =
      hexchar (g[j].extractLsb' 4 4) :: hexchar (g[j].extractLsb' 0 4) :: rest := by
  have inside : 2 * j ≤ (g.toList.flatMap hexOfByte).length := by
    rw [length_flatMap_hexOfByte, Vector.length_toList]
    omega
  have byte : g.toList.drop j = g[j] :: g.toList.drop (j + 1) :=
    List.drop_eq_getElem_cons (by rwa [Vector.length_toList])
  refine ⟨(g.toList.drop (j + 1)).flatMap hexOfByte ++ [0x0A#8], ?_⟩
  rw [hashLine, List.append_assoc, List.drop_length_add_append, List.drop_append_of_le_length inside,
    drop_flatMap_hexOfByte, byte]
  rfl

/-- Settles O58: the characters of byte `j` are the head of the line without what stands before them. -/
theorem hashLineRendersTheDigest : Obligations.HashLineRendersTheDigest := by
  intro g
  refine ⟨length_hashLine g, rfl, List.getLast?_concat .., fun j hj => ?_⟩
  obtain ⟨rest, chars⟩ := drop_hashLine g hj
  have char (i : Nat) : (hashLine g).getD (5 + 2 * j + i) 0#8 =
      (hexchar (g[j].extractLsb' 4 4) :: hexchar (g[j].extractLsb' 0 4) :: rest).getD i 0#8 := by
    rw [← chars, List.getD_eq_getElem?_getD, List.getD_eq_getElem?_getD, List.getElem?_drop]
    rfl
  have second : 6 + 2 * j = 5 + 2 * j + 1 := by omega
  constructor
  · exact (congrArg hexval (char 0)).trans (hexval_hexchar _)
  · rw [second, char 1]
    exact hexval_hexchar _

end Sys2Proof.Machine
end

section
/-!
SUPPORT. SC.CYCLE where the rules select a branch, what the operation of a decoded card-frame byte does, and the
host commands of a byte string.
-/
namespace Sys2Proof.Machine

/-- SC.CYCLE, awake and where a branch's row holds (spec/44_scheduler.md R231). -/
theorem exec_scCycle_of_selectedWhen {s : State} {b : Branch} (awake : s.sleep = false) (h : SelectedWhen s b) :
    exec .scCycle s = .next (runBranch b s) :=
  (execScCycle_next_iff s _).2 ⟨awake, by rw [selectBranch_of_selectedWhen s h]⟩

theorem branchCmd_cons {s : State} {b : Byte} {bs : List Byte} (hq : s.rxq = b :: bs) :
    branchCmd s = doCommand b { s with rxq := bs } := by
  rw [branchCmd, hq]

theorem branchFrame_cons {s : State} {b : Byte} {bs : List Byte} (hf : s.fifo = b :: bs) :
    branchFrame s = frameByte b { s with fifo := bs } := by
  rw [branchFrame, hf]

/-- The operation that a card-frame byte decodes to assembles it (spec/42_assembler.md R174). -/
theorem exec_decodeFrm8 (s : State) (b : Byte) : exec (decodeFrm8 b) s = .next (frameByte b s) := by
  simp only [decodeFrm8, frameByte]
  cases frameClass b <;> rfl

/-! ## The commands of a byte string -/

/-- The state with the commands of a byte string executed in order (spec/44_scheduler.md R240 to R245). -/
def obeyed (bs : List Byte) (s : State) : State :=
  { s with
    act := s.act ++ bs.filterMap actionOfByte
    mode := (bs.filterMap actionOfByte).foldl modeAfter s.mode }

theorem obeyed_nil (s : State) : obeyed [] s = s := by simp [obeyed]

theorem obeyed_cons (b : Byte) (bs : List Byte) (s : State) : obeyed (b :: bs) s = obeyed bs (obeyed [b] s) := by
  rw [← List.singleton_append]
  simp only [obeyed, List.filterMap_append, List.foldl_append, List.append_assoc]

/-- Executing one byte's command, in each of its six classes (spec/44_scheduler.md R239). -/
theorem doCommand_eq_obeyed (b : Byte) (s : State) : doCommand b s = obeyed [b] s := by
  obtain ⟨rfl, e⟩ | ⟨rfl, e⟩ | ⟨rfl, e⟩ | ⟨rfl, e⟩ | ⟨rfl, e⟩ | ⟨other, e⟩ := doCommand_cases s b
  all_goals rw [e]
  · rfl
  · rfl
  · rfl
  · rfl
  · rfl
  · have reserved : actionOfByte b = none := by
      simp only [commandBytes, List.mem_cons, List.not_mem_nil, or_false, not_or] at other
      simp [actionOfByte, other]
    simp [obeyed, reserved]

/-- The host sends a byte string, of which each byte wakes the scheduler and raises `EVF.RX`
(spec/44_scheduler.md R237). -/
theorem runOps_hostSend (b : Byte) (bs : List Byte) (s : State) :
    runOps (hostSend (b :: bs)) s =
      .next { s with sleep := false, rxq := s.rxq ++ b :: bs, evf := s.evf ||| 1#3 } := by
  induction bs generalizing b s with
  | nil => exact runOps_cons_of_next (exec_btRx s b) []
  | cons c bs ih =>
    refine (runOps_cons_of_next (exec_btRx s b) _).trans ((ih c _).trans ?_)
    simp [pushRx, handlerEntry, raiseFlag, flagBit, BitVec.or_assoc]

/-- While `EVF.RX` is set at the top of the cycle, as many cycles as `RXQ` has bytes execute them all
(spec/44_scheduler.md R239, R253). -/
theorem runOps_drain : ∀ (bs : List Byte) {s : State}, s.sleep = false → s.scPhase = .top →
    flagSet .rx s = true → s.rxq = bs →
    runOps (List.replicate bs.length .scCycle) s = .next { obeyed bs s with rxq := [] }
  | [], s, _, _, _, hq => by
    rw [List.length_nil, List.replicate_zero, runOps_nil, obeyed_nil, ← hq]
  | b :: bs, s, awake, hphase, hrx, hq => by
    have taken : exec .scCycle s = .next (obeyed [b] { s with rxq := bs }) := by
      rw [exec_scCycle_of_selectedWhen (b := .cmd) awake ⟨hphase, hrx, hq ▸ List.cons_ne_nil b bs⟩, runBranch,
        branchCmd_cons hq, doCommand_eq_obeyed]
    rw [List.length_cons, List.replicate_succ, runOps_cons_of_next taken,
      runOps_drain bs (s := obeyed [b] { s with rxq := bs }) awake hphase hrx rfl, obeyed_cons b bs s]
    rfl

end Sys2Proof.Machine
end

section
/-!
SUPPORT. The work that is pending in a state, and that each cycle but SC.IDLE does one unit of it
(spec/44_scheduler.md R254).
-/
namespace Sys2Proof.Machine

/-! ## The conditions that select a branch -/

@[simp] theorem flagSet_setPhase (p : ScPhase) (f : EventFlag) (s : State) :
    flagSet f (setPhase p s) = flagSet f s := rfl

/-- What SC.CYCLE tests is in `t` as it is in `s` (spec/44_scheduler.md R231). -/
structure SamePending (s t : State) : Prop where
  evf : t.evf = s.evf
  fifo : t.fifo = s.fifo
  rxq : t.rxq = s.rxq
  phase : t.scPhase = s.scPhase

theorem samePending_obeyed (bs : List Byte) (s : State) : SamePending s (obeyed bs s) := ⟨rfl, rfl, rfl, rfl⟩

theorem samePending_frameByte (b : Byte) (s : State) : SamePending s (frameByte b s) := by
  obtain ⟨-, e⟩ | ⟨-, e⟩ | ⟨-, -, e⟩ := frameByte_cases s b
  all_goals rw [e]
  · exact ⟨rfl, rfl, rfl, rfl⟩
  · obtain ⟨-, -, e⟩ | ⟨-, e⟩ := frameEnd_cases s
    all_goals rw [e]; exact ⟨rfl, rfl, rfl, rfl⟩
  · rw [frameData_frameOnly b s]
    exact ⟨rfl, rfl, rfl, rfl⟩

theorem samePending_sessionEndCheck (s : State) : SamePending s (sessionEndCheck s) := by
  obtain ⟨-, e⟩ | ⟨-, -, e⟩ | ⟨-, -, e⟩ := sessionEndCheck_cases s
  all_goals rw [e]; exact ⟨rfl, rfl, rfl, rfl⟩

theorem samePending_chipPoll (s : State) : SamePending s (chipPoll s) := by
  rw [chipPoll_frame]
  exact ⟨rfl, rfl, rfl, rfl⟩

theorem samePending_idleTimeout (s : State) : SamePending s (idleTimeout s) := by
  obtain ⟨-, e⟩ | ⟨-, e⟩ := idleTimeout_cases s
  all_goals rw [e]; exact ⟨rfl, rfl, rfl, rfl⟩

/-! ## Units of work -/

/-- The cycles that host command input still takes: one for each byte and one to clear the flag. -/
def commandWork (s : State) : Nat := if flagSet .rx s then s.rxq.length + 1 else 0

/-- The cycles that the tick still takes: the two halves of its unit of work, or the second. -/
def tickWork (s : State) : Nat :=
  match s.scPhase with
  | .top => if flagSet .tick s then 2 else 0
  | .tick2 => 1

/-- The cycles until nothing is pending (spec/44_scheduler.md R254). -/
def pendingWork (s : State) : Nat :=
  commandWork s + s.fifo.length + (flagSet .appended s).toNat + tickWork s

theorem tickWork_top {s : State} (h : s.scPhase = .top) : tickWork s = if flagSet .tick s then 2 else 0 := by
  rw [tickWork, h]

theorem tickWork_tick2 {s : State} (h : s.scPhase = .tick2) : tickWork s = 1 := by
  rw [tickWork, h]

/-- The bound of spec/44_scheduler.md R254. -/
theorem pendingWork_le (s : State) : pendingWork s ≤ s.rxq.length + 1 + s.fifoCnt + 1 + 2 := by
  have command : commandWork s ≤ s.rxq.length + 1 := by
    unfold commandWork
    split
    all_goals omega
  have appended : (flagSet .appended s).toNat ≤ 1 := Bool.toNat_le _
  have tick : tickWork s ≤ 2 := by
    cases hphase : s.scPhase with
    | tick2 =>
      rw [tickWork_tick2 hphase]
      omega
    | top =>
      rw [tickWork_top hphase]
      split
      all_goals omega
  simp only [pendingWork, State.fifoCnt]
  omega

theorem SamePending.pendingWork_eq {s t : State} (h : SamePending s t) : pendingWork t = pendingWork s := by
  simp only [pendingWork, commandWork, tickWork, flagSet_congr h.evf, h.fifo, h.rxq, h.phase]

/-- The first half of the tick's unit of work is done. -/
theorem pendingWork_ticked {s : State} (hphase : s.scPhase = .top) (htick : flagSet .tick s = true) :
    pendingWork s = pendingWork (setPhase .tick2 s) + 1 := by
  simp only [pendingWork, tickWork_top hphase, htick, if_true, tickWork_tick2 (s := setPhase .tick2 s) rfl]
  rfl

/-- The second half is done, and the flag cleared. -/
theorem pendingWork_tickServed {s : State} (hphase : s.scPhase = .tick2) :
    pendingWork s = pendingWork (setPhase .top (clearFlag .tick s)) + 1 := by
  simp [pendingWork, commandWork, tickWork, hphase]

theorem pendingWork_appendServed {s : State} (happended : flagSet .appended s = true) :
    pendingWork s = pendingWork (clearFlag .appended s) + 1 := by
  simp [pendingWork, commandWork, tickWork, happended, Nat.add_right_comm]

theorem pendingWork_commandsServed {s : State} (hrx : flagSet .rx s = true) (hq : s.rxq = []) :
    pendingWork s = pendingWork (clearFlag .rx s) + 1 := by
  simp [pendingWork, commandWork, tickWork, hrx, hq, Nat.add_comm 1, Nat.add_right_comm]

/-- A byte less in `RXQ`. -/
theorem pendingWork_popRx {s : State} {b : Byte} {bs : List Byte} (hrx : flagSet .rx s = true)
    (hq : s.rxq = b :: bs) : pendingWork s = pendingWork { s with rxq := bs } + 1 := by
  have before : commandWork s = bs.length + 1 + 1 := by rw [commandWork, if_pos hrx, hq, List.length_cons]
  have after : commandWork { s with rxq := bs } = bs.length + 1 := if_pos hrx
  have popped : pendingWork { s with rxq := bs } =
      commandWork { s with rxq := bs } + s.fifo.length + (flagSet .appended s).toNat + tickWork s := rfl
  rw [popped, pendingWork, before, after]
  omega

/-- A byte less in `FIFO`. -/
theorem pendingWork_popFifo {s : State} {b : Byte} {bs : List Byte} (hfifo : s.fifo = b :: bs) :
    pendingWork s = pendingWork { s with fifo := bs } + 1 := by
  have popped : pendingWork { s with fifo := bs } =
      commandWork s + bs.length + (flagSet .appended s).toNat + tickWork s := rfl
  rw [popped, pendingWork, hfifo, List.length_cons]
  omega

/-- Each branch but SC.IDLE does one unit of the pending work where it is selected. -/
theorem pendingWork_runBranch {s : State} {b : Branch} (selected : SelectedWhen s b) (busy : b ≠ .idle) :
    pendingWork s = pendingWork (runBranch b s) + 1 := by
  cases b with
  | idle => exact absurd rfl busy
  | tick2 =>
    have same := samePending_idleTimeout s
    rw [← same.pendingWork_eq]
    exact pendingWork_tickServed (same.phase.trans selected)
  | cmd =>
    obtain ⟨-, hrx, hq⟩ := selected
    obtain ⟨byte, bs, hq⟩ := List.exists_cons_of_ne_nil hq
    rw [pendingWork_popRx hrx hq, runBranch, branchCmd_cons hq, doCommand_eq_obeyed,
      (samePending_obeyed _ _).pendingWork_eq]
  | cmdclr =>
    obtain ⟨-, hrx, hq⟩ := selected
    exact pendingWork_commandsServed hrx hq
  | frame =>
    obtain ⟨-, -, hfifo⟩ := selected
    obtain ⟨byte, bs, hfifo⟩ := List.exists_cons_of_ne_nil ((fifoCnt_pos_iff s).1 hfifo)
    rw [pendingWork_popFifo hfifo, runBranch, branchFrame_cons hfifo, (samePending_frameByte _ _).pendingWork_eq]
  | append =>
    obtain ⟨-, -, -, happended⟩ := selected
    have same := samePending_sessionEndCheck s
    rw [← same.pendingWork_eq]
    exact pendingWork_appendServed ((flagSet_congr same.evf _).trans happended)
  | tick1 =>
    obtain ⟨hphase, -, -, -, htick⟩ := selected
    have same := samePending_chipPoll s
    rw [← same.pendingWork_eq]
    exact pendingWork_ticked (same.phase.trans hphase) ((flagSet_congr same.evf _).trans htick)

/-! ## Cycles to SC.IDLE -/

/-- Each cycle idles with no work pending, or does one unit of it and stays awake. -/
theorem scCycle_idles_or_works {s : State} (awake : s.sleep = false) :
    (exec .scCycle s = .next (branchIdle s) ∧ pendingWork s = 0 ∧ SelectedWhen s .idle) ∨
    ∃ t, exec .scCycle s = .next t ∧ t.sleep = false ∧ pendingWork s = pendingWork t + 1 := by
  have selected := selectedWhen_selectBranch s
  have taken := exec_scCycle_of_selectedWhen awake selected
  by_cases idle : selectBranch s = .idle
  · rw [idle] at selected taken
    have ⟨hphase, hevf, hfifo⟩ := selected
    obtain ⟨hrx, htick, happended⟩ := (evf_eq_zero_iff s).1 hevf
    have nothing : s.fifo.length = 0 := hfifo
    refine .inl ⟨taken, ?_, selected⟩
    simp [pendingWork, commandWork, tickWork_top hphase, hrx, htick, happended, nothing]
  · refine .inr ⟨_, taken, ?_, pendingWork_runBranch selected idle⟩
    rw [runBranch_only s idle, awake]

theorem cycles_succ_of_next {s t : State} (h : exec .scCycle s = .next t) (n : Nat) :
    cycles (n + 1) s = cycles n t :=
  runOps_cons_of_next h _

/-- As many cycles as work is pending, and one for SC.IDLE, reach it. -/
theorem cycles_pendingWork {n : Nat} : ∀ {s : State}, s.sleep = false → pendingWork s = n →
    ∃ t, cycles (n + 1) s = .next t ∧ t.sleep = true ∧ t.evf = 0#3 ∧ t.fifo = [] ∧ t.scPhase = .top := by
  induction n with
  | zero =>
    intro s awake done
    obtain ⟨taken, -, hphase, hevf, hfifo⟩ | ⟨t, -, -, works⟩ := scCycle_idles_or_works awake
    · exact ⟨_, cycles_succ_of_next taken 0, rfl, hevf, (fifoCnt_eq_zero_iff s).1 hfifo, hphase⟩
    · omega
  | succ n ih =>
    intro s awake pending
    obtain ⟨-, done, -⟩ | ⟨t, taken, stays, works⟩ := scCycle_idles_or_works awake
    · omega
    · rw [cycles_succ_of_next taken]
      exact ih stays (by omega)

end Sys2Proof.Machine
end

section
/-! PROOFS. The family 44_scheduler.md, the branches of SC.CYCLE and runs of cycles. -/
namespace Sys2Proof.Machine

/-- Settles O37. -/
theorem idleSetsSleep : Obligations.IdleSetsSleep := fun s awake hphase hevf hfifo =>
  exec_branchOperation_of_selectedWhen s (b := .idle) awake ⟨hphase, hevf, (fifoCnt_eq_zero_iff s).2 hfifo⟩

/-- Settles O39. -/
theorem drainedQueueClearsTheFlag : Obligations.DrainedQueueClearsTheFlag := fun s awake hphase hrx hq =>
  exec_branchOperation_of_selectedWhen s (b := .cmdclr) awake ⟨hphase, hrx, hq⟩

/-- Settles O40. -/
theorem frameBranchTakesOneByte : Obligations.FrameBranchTakesOneByte := by
  intro s b bs awake hphase hrx hfifo
  have pending : 0 < s.fifoCnt := (fifoCnt_pos_iff s).2 (hfifo ▸ List.cons_ne_nil b bs)
  have run : exec .scFrame s = .next (branchFrame s) :=
    exec_branchOperation_of_selectedWhen s (b := .frame) awake ⟨hphase, hrx, pending⟩
  exact ⟨_, run, branchFrame_cons hfifo ▸ exec_decodeFrm8 { s with fifo := bs } b⟩

/-- Raising `EVF.RX` and clearing it again is clearing it. -/
theorem rx_raised_cleared : ∀ e : BitVec 3, (e ||| 1#3) &&& 6#3 = e &&& 6#3 := by decide

/-- Settles O43: the bytes are queued, each cycle executes the oldest, and the flag is cleared when none is left. -/
theorem queuedCommandsRunInOrder : Obligations.QueuedCommandsRunInOrder := by
  intro bs s hphase hq nonempty
  obtain ⟨b, cs, rfl⟩ := List.exists_cons_of_ne_nil nonempty
  have raised : flagSet .rx (raiseFlag .rx s) = true := by simp
  have queued : s.rxq ++ b :: cs = b :: cs := by rw [hq, List.nil_append]
  have sent := runOps_hostSend b cs s
  have drained := runOps_drain (b :: cs)
    (s := { s with sleep := false, rxq := s.rxq ++ b :: cs, evf := s.evf ||| 1#3 }) rfl hphase raised queued
  have cleared := drainedQueueClearsTheFlag
    { obeyed (b :: cs) { s with sleep := false, evf := s.evf ||| 1#3 } with rxq := [] } rfl hphase raised rfl
  refine ⟨_, ?_, rfl⟩
  rw [List.append_assoc, runOps_append_of_next sent, runOps_append_of_next drained]
  refine (runOps_cons_of_next cleared []).trans ?_
  simp only [runOps_nil, obeyed, rx_raised_cleared, hq]

/-- Settles O44: only the two command branches are selected, of which one executes a byte and the other clears
`EVF.RX`. -/
theorem commandsComeFirst : Obligations.CommandsComeFirst := by
  intro s t hphase hrx ht
  obtain ⟨awake, -⟩ := (execScCycle_next_iff s t).1 ht
  cases hq : s.rxq with
  | nil =>
    have run := exec_scCycle_of_selectedWhen (b := .cmdclr) awake ⟨hphase, hrx, hq⟩
    cases run.symm.trans ht
    simp [noLowerProgress, runBranch, branchCmdclr]
  | cons b bs =>
    have run := exec_scCycle_of_selectedWhen (b := .cmd) awake ⟨hphase, hrx, hq ▸ List.cons_ne_nil b bs⟩
    rw [runBranch, branchCmd_cons hq, doCommand_eq_obeyed] at run
    cases run.symm.trans ht
    exact ⟨rfl, rfl, rfl, rfl, rfl, rfl, rfl, rfl, rfl, rfl, rfl⟩

/-- Settles O45: the pending work is within the bound, and each cycle does one unit of it. -/
theorem cyclesReachIdle : Obligations.CyclesReachIdle := by
  intro s awake
  obtain ⟨t, run, asleep⟩ := cycles_pendingWork awake rfl
  exact ⟨pendingWork s + 1, t, Nat.succ_le_succ (pendingWork_le s), run, asleep⟩

end Sys2Proof.Machine
end

section
/-! PROOFS. The family 44_scheduler.md, the commands, the handlers and the environment. -/
namespace Sys2Proof.Machine

/-- Settles O41. -/
theorem commandsDoWhatTheirLettersSay : Obligations.CommandsDoWhatTheirLettersSay := fun s =>
  ⟨exec_cmdO s, exec_cmdD s, exec_cmdN s, exec_cmdR s, exec_cmdV s, exec_cmdRsvd s⟩

/-- Settles O46. -/
theorem tickCountsAndRaises : Obligations.TickCountsAndRaises := exec_tkTick_eq

/-- Settles O48. -/
theorem transportHandlers : Obligations.TransportHandlers := ⟨fun b s => exec_btRx s b, exec_btTxrdy⟩

/-! ## The environment's cards -/

theorem cardOfTable_zero (table : List (List Byte)) : cardOfTable table 0 = some none := rfl

theorem cardOfTable_pos (table : List (List Byte)) {k : Nat} (hk : k ≠ 0) :
    cardOfTable table k = (table[k - 1]?).map some := if_neg hk

/-- ENV.CARD with an index that the card table has (spec/44_scheduler.md R251). -/
theorem placeCard_listed {s : State} {k : Byte} {c : Option (List Byte)}
    (h : cardOfTable s.cardTable k.toNat = some c) : placeCard k s = { s with card := c } := by
  simp only [placeCard, h]

/-- ENV.CARD with an index that the card table does not have (log entry 7). -/
theorem placeCard_unlisted {s : State} {k : Byte} (h : cardOfTable s.cardTable k.toNat = none) :
    placeCard k s = { s with card := Config.cardOutsideTable s.drawn k, drawn := s.drawn + 1 } := by
  simp only [placeCard, h]

/-- Settles O49: index 0, an index of the table, and one past its end. -/
theorem environmentPlacesCards : Obligations.EnvironmentPlacesCards := by
  intro k s
  have index (pos : k ≠ 0#8) : k.toNat ≠ 0 := fun zero => pos (BitVec.eq_of_toNat_eq zero)
  refine ⟨fun zero => ?_, fun id pos listed => ?_, fun pos past => ?_⟩
  · subst zero
    rw [exec_envCard, placeCard_listed (cardOfTable_zero s.cardTable)]
  · rw [exec_envCard, placeCard_listed]
    rw [cardOfTable_pos _ (index pos), listed, Option.map_some]
  · refine ⟨Config.cardOutsideTable s.drawn k, ?_⟩
    rw [exec_envCard, placeCard_unlisted]
    rw [cardOfTable_pos _ (index pos), List.getElem?_eq_none (by omega), Option.map_none]

end Sys2Proof.Machine
end

section
/-! SUPPORT. When an operation, or a step, does not run: what stops it, by name. -/
namespace Sys2Proof.Machine

variable {s : State}

/-- A step refuses a word that does not decode by the name of what is wrong with it (spec/30_encoding.md R105). -/
theorem step_of_decode_error {w : EvtWord} {ws : List EvtWord} {e : DecodeError} (hs : s.stim = w :: ws)
    (hd : decodeEvt32 w = .error e) : step s = .refused (refusalOf e) := by
  simp only [step, fetchOperation, nextStimulus, hs, hd]

/-- A step after the last word is refused (log entry 3). -/
theorem step_of_stim_nil (hs : s.stim = []) : step s = .refused .stimulusEnded := by
  simp only [step, fetchOperation, nextStimulus, hs]

/-- SC.CYCLE is not enabled while the scheduler sleeps (spec/44_scheduler.md R231). -/
theorem exec_scCycle_of_asleep (asleep : s.sleep = true) : exec .scCycle s = .fault .schedulerAsleep :=
  if_pos asleep

/-- Nor is an operation that names a branch (spec/10_state.md R37). -/
theorem exec_branchOperation_of_asleep (b : Branch) (asleep : s.sleep = true) :
    exec (branchOperation b) s = .fault .schedulerAsleep := by
  rw [exec_branchOperation]
  exact if_pos asleep

/-- Awake, an operation that names a branch other than the one selected is refused (log entry 9). -/
theorem exec_branchOperation_of_not_selected {b : Branch} (awake : s.sleep = false) (other : selectBranch s ≠ b) :
    exec (branchOperation b) s = .refused .branchNotSelected := by
  rw [exec_branchOperation, takingBranch, if_neg (by simp [awake]), if_neg other]

/-- SU.EDGE with a count outside the timer's range is refused (log entry 10). -/
theorem exec_suEdge_of_wide (lv : Bool) {t : BitVec 16} (wide : 2 ^ s.par.timerW ≤ t.toNat) :
    exec (.suEdge lv t) s = .refused .timerCountTooWide :=
  if_neg (Nat.not_lt.2 wide)

end Sys2Proof.Machine
end

section
/-! PROOFS. The remaining statements: one step, what is refused, and the state after reset. -/
namespace Sys2Proof.Machine

/-! ## One step, and what stops it -/

/-- Settles O5: by what the stimulus holds and what its word decodes to. -/
theorem stepRunsDecodedOperation : Obligations.StepRunsDecodedOperation := by
  refine ⟨?decoded, ?reserved, ?unused, ?ended⟩
  case decoded => exact fun s _ _ _ hs hd => step_next s hs hd
  case reserved => exact fun _ _ _ hs hd => step_of_decode_error hs hd
  case unused => exact fun _ _ _ hs hd => step_of_decode_error hs hd
  case ended => exact fun _ hs => step_of_stim_nil hs

/-- Settles O21. -/
theorem wideTimerCountIsRefused : Obligations.WideTimerCountIsRefused := fun lv _ _ wide =>
  exec_suEdge_of_wide lv wide

/-- Settles O36. -/
theorem cycleStopsWhereNotEnabled : Obligations.CycleStopsWhereNotEnabled :=
  ⟨fun _ asleep => exec_scCycle_of_asleep asleep,
    fun _ b asleep => exec_branchOperation_of_asleep b asleep,
    fun _ _ awake other => exec_branchOperation_of_not_selected awake other⟩

/-! ## Reset -/

/-- An index of `BUF` that is not listed reads as the filler (spec/10_state.md R33). -/
theorem Memory.read_buf_nil (i : Nat) : Memory.read .buf [] i = BitVec.ofNat 8 i := rfl

/-- Settles O51: no byte of `BUF` is listed after reset, and the registers are those of `State.resetWith`. -/
theorem resetState : Obligations.ResetState := fun _ => ⟨fun i _ => Memory.read_buf_nil i, rfl, rfl⟩

/-- `CHIP_ID_MAX` is in 1 to 255: a remainder below 255, and one more, is not 0 in eight bits. -/
theorem configParams_chipIdMax_ne_zero : Config.params.chipIdMax ≠ 0#8 := by
  have below : Config.rawChipIdMax % 255 < 255 := Nat.mod_lt _ (by decide)
  have value : Config.params.chipIdMax.toNat = (Config.rawChipIdMax % 255 + 1) % 2 ^ 8 := BitVec.toNat_ofNat _ _
  intro zero
  rw [zero, BitVec.toNat_zero] at value
  omega

/-- The parameters of `State.reset` meet their constraints, whatever the unknown values are: each is taken modulo
the largest range that the two 16-bit widths admit (spec/00_scope.md R11; log entry 2). -/
theorem configParams_wf : Config.params.wf := by
  have ticks : Config.rawTickHz % 6552 < 6552 := Nat.mod_lt _ (by decide)
  have period : Config.rawSuTbitQ % 1525201 < 1525201 := Nat.mod_lt _ (by decide)
  refine ⟨?tickHz, ?secsW, ?timerW, ?suTbitQ, ?suPhaseQ, ?suTimeout, configParams_chipIdMax_ne_zero⟩
  case tickHz => change 1 < Config.rawTickHz % 6552 + 2; omega
  case secsW => change 10 * (Config.rawTickHz % 6552 + 2) + 2 ≤ 2 ^ 16; omega
  case timerW => exact Nat.le_refl 16
  case suTbitQ => exact Nat.succ_pos _
  case suPhaseQ => exact Nat.succ_pos _
  case suTimeout => change 11 * (Config.rawSuTbitQ % 1525201 + 1) / 2 ^ 8 < 2 ^ 16; omega

/-- The state after reset meets the invariant: the memories, the queues and the traces are empty, `CNT` and the
accumulators are 0, and no frame is open (spec/10_state.md R49). -/
theorem inv_resetWith {p : Params} (hp : p.wf) : Inv (State.resetWith p) where
  params := hp
  bufForm := rfl
  frmForm := rfl
  filler := fun i _ => Memory.read_buf_nil i
  cntBound := Nat.zero_le _
  fifoBound := Nat.zero_le _
  secsRange := Nat.two_pow_pos _
  originRange := Nat.two_pow_pos _
  matchRange := Nat.two_pow_pos _
  armed := ⟨nofun, nofun⟩
  bitsSampling := nofun
  byteSampling := nofun
  accClear := fun _ _ => BitVec.getLsbD_zero
  frameIdle := fun _ => rfl
  rxPending := fun nonempty => absurd rfl nonempty
  tickPending := nofun
  asleep := nofun
  modeOfActions := rfl
  txLines := ⟨[], rfl, nofun⟩

/-- Settles O60. -/
theorem resetMeetsTheInvariant : Obligations.ResetMeetsTheInvariant :=
  ⟨fun _ hp => inv_resetWith hp, inv_resetWith configParams_wf⟩

end Sys2Proof.Machine
end
